-- ==== Sys2Proof/Word.lean ====
section
/-! DEFINITION. The word types of the tile-rasterizer pipeline (spec/00_scope.md R8). -/

namespace Sys2Proof

/-- A register word, or a command payload: 32 bits (R8, R30, R102). -/
abbrev Word := BitVec 32

/-- A byte of FB or VRAM (R72, R73). -/
abbrev Byte := BitVec 8

/-- The byte address of a register access: 20 bits (R71, R100). -/
abbrev RegAddr := BitVec 20

/-- A command id: `CMD_ID_BITS` = 8 bits (R102). -/
abbrev CmdId := BitVec 8

/-- A sample of ZBUF: 16 bits (R29, R74). -/
abbrev Depth := BitVec 16

end Sys2Proof
end

