-- ==== Sys2Proof/Config.lean ====
section
/-! DEFINITION. The parameters of spec/00_scope.md R7, the constants its rules fix, and the three
free values. The parameters are a plain record that the state carries (`State.cfg`) and no step changes, so
that a statement about every state holds for every instance of them. -/

namespace Sys2Proof

/-- A colour: four exact rationals, each 0..1 in every state a run reaches (R9, R23). -/
structure Rgba where
  r : Rat
  g : Rat
  b : Rat
  a : Rat
  deriving DecidableEq, Repr

/-- `ZKEY_ROUNDING` (R7): what becomes of the fraction of a z-sort key. Rounding
upwards is no mode of it: it would leave the range 0..4094 that R27 and R241 give the key. -/
inductive RoundingMode where
  /-- to the nearest integer, a half upwards: the spec's choice (R241, D21). -/
  | halfUp
  /-- to the nearest integer, a half downwards. -/
  | halfDown
  /-- to the nearest integer, a half to the even one. -/
  | halfEven
  /-- downwards. -/
  | down
  deriving DecidableEq, Repr

/-- `NUMERICS` (R7, R256): the arithmetic of the pipeline. -/
inductive Numerics where
  /-- exact rationals: the spec's reference semantics (D20). -/
  | exact
  /-- another arithmetic, one for each number: every result of `+ - * /` is `Config.freeRound` of the exact
  one. -/
  | rounded (arithmetic : Nat)
  deriving DecidableEq, Repr

/-- `BANK_ID` (R7): the number of each bank, by default in the order of the source's table (R31, D3). -/
structure BankIds where
  core : BitVec 3 := 0#3
  poly : BitVec 3 := 1#3
  tex : BitVec 3 := 2#3
  render : BitVec 3 := 3#3
  pci : BitVec 3 := 4#3
  video : BitVec 3 := 5#3
  dma : BitVec 3 := 6#3
  interrupt : BitVec 3 := 7#3
  deriving DecidableEq, Repr

/-- `OFF_*` (R7): the word of its bank, a byte offset over 4, of each named register, by default the table of
R31 (D6). -/
structure Offsets where
  coreId : BitVec 10 := 0#10
  coreRevision : BitVec 10 := 1#10
  coreStatus : BitVec 10 := 2#10
  coreConfig : BitVec 10 := 3#10
  coreReset : BitVec 10 := 4#10
  polyControl : BitVec 10 := 0#10
  polyVertex : BitVec 10 := 1#10
  polyNormal : BitVec 10 := 2#10
  polyColor : BitVec 10 := 3#10
  polyTexcoord : BitVec 10 := 4#10
  texControl : BitVec 10 := 0#10
  texAddr : BitVec 10 := 1#10
  texFormat : BitVec 10 := 2#10
  texFilter : BitVec 10 := 3#10
  renderControl : BitVec 10 := 0#10
  renderZbuffer : BitVec 10 := 1#10
  renderBlend : BitVec 10 := 2#10
  videoFbaddr : BitVec 10 := 0#10
  videoStride : BitVec 10 := 1#10
  dmaControl : BitVec 10 := 0#10
  dmaSrc : BitVec 10 := 1#10
  dmaDest : BitVec 10 := 2#10
  dmaCount : BitVec 10 := 3#10
  dmaStatus : BitVec 10 := 4#10
  intStatus : BitVec 10 := 0#10
  intMask : BitVec 10 := 1#10
  intClear : BitVec 10 := 2#10
  deriving DecidableEq, Repr

/-- The bit positions of every named bit, and the lowest bits of the two fields of TEX.FORMAT (R7); by
default the tables of R33, R35, R36, R39, R40, R44, R46 and R47 (D7, D8, D10 to D14). -/
structure BitPositions where
  fifoEmpty : BitVec 5 := 0#5
  fifoFull : BitVec 5 := 1#5
  renderBusy : BitVec 5 := 2#5
  renderRunning : BitVec 5 := 3#5
  dmaBusy : BitVec 5 := 4#5
  renderComplete : BitVec 5 := 5#5
  vblank : BitVec 5 := 6#5
  resetCore : BitVec 5 := 0#5
  resetGeometry : BitVec 5 := 1#5
  resetTexture : BitVec 5 := 2#5
  resetRender : BitVec 5 := 3#5
  resetDma : BitVec 5 := 4#5
  cullCcw : BitVec 5 := 0#5
  cullCw : BitVec 5 := 1#5
  ztest : BitVec 5 := 2#5
  gouraud : BitVec 5 := 3#5
  textured : BitVec 5 := 4#5
  texSizeCode : BitVec 5 := 0#5
  texFmt : BitVec 5 := 4#5
  renderStart : BitVec 5 := 0#5
  renderReset : BitVec 5 := 1#5
  dmaStart : BitVec 5 := 0#5
  dmaReset : BitVec 5 := 1#5
  dmaActive : BitVec 5 := 0#5
  dmaDone : BitVec 5 := 1#5
  intComplete : BitVec 5 := 0#5
  intEnable : BitVec 5 := 0#5
  deriving DecidableEq, Repr

/-- The parameters a model takes as arguments (R7). The OPEN ones have no value in the spec; the others
are those the spec asks to be rebindable (92_eei_decisions.md, "Open parameters, collected"). -/
structure Params where
  /-- `CHIP_ID`, OPEN (R32). -/
  chipId : Word
  /-- `CHIP_REVISION`, OPEN (R32). -/
  chipRevision : Word
  /-- `CONFIG_DEFAULT[31:2]`, OPEN (R7, R34). -/
  configDefaultHigh : BitVec 30
  /-- `TEX_CONTROL_DEFAULT`, OPEN (R38). -/
  texControlDefault : Word
  /-- `TEX_FORMAT_DEFAULT`, OPEN (R39). -/
  texFormatDefault : Word
  /-- `TEX_FILTER_DEFAULT`, OPEN (R38). -/
  texFilterDefault : Word
  /-- `ZBUFFER_DEFAULT`, OPEN (R41). -/
  zbufferDefault : Word
  /-- `BLEND_DEFAULT`, OPEN (R41). -/
  blendDefault : Word
  /-- `VRAM_SIZE` in bytes, OPEN (R73). -/
  vramSize : Nat
  /-- `TIMER_LATENCY_US`, OPEN; no rule reads it (R319). -/
  timerLatencyUs : Nat
  /-- `FIFO_CAPACITY`, at least 1 (R49). -/
  fifoCapacity : Nat
  /-- `MAX_POLYGONS`, at least 1 (R27). -/
  maxPolygons : Nat
  /-- `READ_SENTINEL` (R156). -/
  readSentinel : Word
  /-- `FWD_ID_VERTEX` (R111). -/
  fwdIdVertex : CmdId
  /-- `FWD_ID_TEXCOORD` (R111). -/
  fwdIdTexcoord : CmdId
  /-- `FWD_ID_NORMAL` (R111). -/
  fwdIdNormal : CmdId
  /-- `FWD_ID_COLOR` (R111). -/
  fwdIdColor : CmdId
  /-- `CLIP_TO_TILE` (R261). -/
  clipToTile : Bool
  /-- `TEX_PLACEHOLDER`, components in [0,1] (R267). -/
  texPlaceholder : Rgba
  /-- `BANK_ID` (R31). -/
  bankId : BankIds
  /-- `OFF_*` (R31). -/
  offset : Offsets
  /-- The bit positions of every named bit (R33 to R47). -/
  bits : BitPositions
  /-- `ZKEY_ROUNDING` (R241). -/
  zkeyRounding : RoundingMode
  /-- `SAMPLE_OFFSET` (R263). -/
  sampleOffset : Rat
  /-- `NUMERICS` (R256). -/
  numerics : Numerics
  deriving DecidableEq, Repr

/-- `CONFIG_DEFAULT`: open above bit 1, bits[1:0] = 2 (R7, D9). -/
def Params.configDefault (p : Params) : Word := p.configDefaultHigh ++ 2#2

/-- The instance of the parameters at `State.reset`. The rebindable ones have R7's defaults; the OPEN ones
have the values that 95_test_vectors.md section 0 assumes, and a delay of 0.
DESIGN CHOICE, unsafe for a statement about `State.reset` alone: notes/assumptions/1.md. -/
def Params.assumed : Params where
  chipId := 0x00001111#32
  chipRevision := 0x00002222#32
  configDefaultHigh := 0#30
  texControlDefault := 0#32
  texFormatDefault := 0#32
  texFilterDefault := 0#32
  zbufferDefault := 0#32
  blendDefault := 0#32
  vramSize := 0x100000
  timerLatencyUs := 0
  fifoCapacity := 64
  maxPolygons := 1024
  readSentinel := 0xFFFFFFFF#32
  fwdIdVertex := 0x01#8
  fwdIdTexcoord := 0x02#8
  fwdIdNormal := 0x03#8
  fwdIdColor := 0x04#8
  clipToTile := false
  texPlaceholder := ⟨1, 1, 1, 1⟩
  bankId := {}
  offset := {}
  bits := {}
  zkeyRounding := .halfUp
  sampleOffset := 1 / 2
  numerics := .exact

/-- A colour whose components lie in [0,1]. -/
def Rgba.inUnit (c : Rgba) : Bool :=
  decide (0 ≤ c.r ∧ c.r ≤ 1 ∧ 0 ≤ c.g ∧ c.g ≤ 1 ∧ 0 ≤ c.b ∧ c.b ≤ 1 ∧ 0 ≤ c.a ∧ c.a ≤ 1)

/-- The numbers of the banks, in the order of R31. -/
def BankIds.list (b : BankIds) : List (BitVec 3) :=
  [b.core, b.poly, b.tex, b.render, b.pci, b.video, b.dma, b.interrupt]

/-- The words of the named registers, bank by bank. -/
def Offsets.lists (o : Offsets) : List (List (BitVec 10)) :=
  [[o.coreId, o.coreRevision, o.coreStatus, o.coreConfig, o.coreReset],
   [o.polyControl, o.polyVertex, o.polyNormal, o.polyColor, o.polyTexcoord],
   [o.texControl, o.texAddr, o.texFormat, o.texFilter],
   [o.renderControl, o.renderZbuffer, o.renderBlend],
   [o.videoFbaddr, o.videoStride],
   [o.dmaControl, o.dmaSrc, o.dmaDest, o.dmaCount, o.dmaStatus],
   [o.intStatus, o.intMask, o.intClear]]

/-- The positions of the named bits, register by register. -/
def BitPositions.lists (b : BitPositions) : List (List (BitVec 5)) :=
  [[b.fifoEmpty, b.fifoFull, b.renderBusy, b.renderRunning, b.dmaBusy, b.renderComplete, b.vblank],
   [b.resetCore, b.resetGeometry, b.resetTexture, b.resetRender, b.resetDma],
   [b.cullCcw, b.cullCw, b.ztest, b.gouraud, b.textured],
   [b.renderStart, b.renderReset], [b.dmaStart, b.dmaReset], [b.dmaActive, b.dmaDone]]

/-- What R7's column "type" asks of the parameters, and that no two banks have one number, no two registers
of a bank one offset, no two bits of a register one position. -/
def Params.wf (p : Params) : Bool :=
  decide (1 ≤ p.fifoCapacity) && decide (1 ≤ p.maxPolygons) && p.texPlaceholder.inUnit &&
    decide p.bankId.list.Nodup && p.offset.lists.all (fun l => decide l.Nodup) &&
    p.bits.lists.all (fun l => decide l.Nodup)

/-- `DRAIN_BATCH` = 32 (R7, R193). -/
def drainBatch : Nat := 32

/-- `DMA_MAX` = 16 MiB (R7, R301). -/
def dmaMax : Nat := 16777216

/-- `ZKEY_SCALE` (R7, R241). -/
def zkeyScale : Nat := 1365

/-- `AREA_EPS` (R7, R262). -/
def areaEps : Rat := 1 / 1000000

/-- A free value of this model: the sample at an index of ZBUF in its n-th allocation, before a render
clears it ("contents unspecified", R29, R321, U8). No body: nothing can be proved about its value.
Safe: notes/assumptions/5.md. -/
opaque Config.freeDepth (allocation index : Nat) : Depth

/-- A free value of this model: what an arithmetic other than exact rationals makes of the exact result of an
operation (R256, U1). No body: nothing can be proved about its value. DESIGN CHOICE: the form that
notes/assumptions/9.md gives it. -/
opaque Config.freeRound (arithmetic : Nat) (exact : Rat) : Rat

/-- A free value of this model: what is stored of an integer that does not fit its unsigned field, a depth outside
16 bits or a colour component outside 8 (R266 and R269 give only integers that fit; U1 leaves the others open).
No body: nothing can be proved about its value. DESIGN CHOICE: notes/assumptions/20.md. -/
opaque Config.freeNarrow (n : Numerics) (width : Nat) (z : Int) : BitVec width

end Sys2Proof
end

