-- ==== Sys2Proof/Machine/RegMap.lean ====
section
/-! DEFINITION. The names of banks, registers and bits: their numbers in the tables of spec/10_state.md (R31,
R33 to R47). The source gives no number; these are the spec's decisions D3 and D6 to D14
(notes/assumptions/11.md), and the defaults of the parameters `BANK_ID`, `OFF_*` and of the bit positions (R7),
which Placement.lean applies. -/

namespace Sys2Proof.Machine

/-- A word of the register file: `REG[bank][word]` (R30). -/
structure RegName where
  bank : BitVec 3
  word : BitVec 10
  deriving DecidableEq, Repr

/-- The position of `REG[bank][word]` among the 8 x 1024 words. -/
def RegName.key (r : RegName) : Nat := r.bank.toNat * 1024 + r.word.toNat

/-- The byte address of a word, with the ignored bits 19:16 zero (R30, R100). -/
def RegName.addr (r : RegName) : RegAddr := (0#5 ++ r.bank ++ r.word ++ 0#2 : BitVec (5 + 3 + 10 + 2))

/-- The word of a bank at a byte offset: `WORD = offset >> 2` (R100). -/
def regAt (bank : BitVec 3) (offset : Nat) : RegName := ⟨bank, BitVec.ofNat 10 (offset / 4)⟩

-- the banks, in the order of the source's table (R31, D3)
def bankCore : BitVec 3 := 0#3
def bankPoly : BitVec 3 := 1#3
def bankTex : BitVec 3 := 2#3
def bankRender : BitVec 3 := 3#3
def bankPci : BitVec 3 := 4#3
def bankVideo : BitVec 3 := 5#3
def bankDma : BitVec 3 := 6#3
def bankInt : BitVec 3 := 7#3

-- the named registers (R31)
def regCoreId : RegName := regAt bankCore 0x000
def regCoreRevision : RegName := regAt bankCore 0x004
def regCoreStatus : RegName := regAt bankCore 0x008
def regCoreConfig : RegName := regAt bankCore 0x00C
def regCoreReset : RegName := regAt bankCore 0x010
def regPolyControl : RegName := regAt bankPoly 0x000
def regPolyVertex : RegName := regAt bankPoly 0x004
def regPolyNormal : RegName := regAt bankPoly 0x008
def regPolyColor : RegName := regAt bankPoly 0x00C
def regPolyTexcoord : RegName := regAt bankPoly 0x010
def regTexControl : RegName := regAt bankTex 0x000
def regTexAddr : RegName := regAt bankTex 0x004
def regTexFormat : RegName := regAt bankTex 0x008
def regTexFilter : RegName := regAt bankTex 0x00C
def regRenderControl : RegName := regAt bankRender 0x000
def regRenderZbuffer : RegName := regAt bankRender 0x004
def regRenderBlend : RegName := regAt bankRender 0x008
def regVideoFbaddr : RegName := regAt bankVideo 0x000
def regVideoStride : RegName := regAt bankVideo 0x004
def regDmaControl : RegName := regAt bankDma 0x000
def regDmaSrc : RegName := regAt bankDma 0x004
def regDmaDest : RegName := regAt bankDma 0x008
def regDmaCount : RegName := regAt bankDma 0x00C
def regDmaStatus : RegName := regAt bankDma 0x010
def regIntStatus : RegName := regAt bankInt 0x000
def regIntMask : RegName := regAt bankInt 0x004
def regIntClear : RegName := regAt bankInt 0x008

-- the bits of REG.CORE.STATUS (R33)
def bitFifoEmpty : Nat := 0
def bitFifoFull : Nat := 1
def bitRenderBusy : Nat := 2
def bitRenderRunning : Nat := 3
def bitDmaBusy : Nat := 4
def bitRenderComplete : Nat := 5
def bitVblank : Nat := 6

-- the bits of REG.CORE.RESET (R35)
def bitResetCore : Nat := 0
def bitResetGeometry : Nat := 1
def bitResetTexture : Nat := 2
def bitResetRender : Nat := 3
def bitResetDma : Nat := 4

-- the bits of REG.POLY.CONTROL and of the flags of a polygon (R36)
def bitCullCcw : Nat := 0
def bitCullCw : Nat := 1
def bitZtest : Nat := 2
def bitGouraud : Nat := 3
def bitTextured : Nat := 4

-- START and RESET of REG.RENDER.CONTROL and REG.DMA.CONTROL (R40, R44)
def bitStart : Nat := 0
def bitReset : Nat := 1

-- the bits of REG.DMA.STATUS (R46)
def bitDmaActive : Nat := 0
def bitDmaDone : Nat := 1

/-- `COMPLETE` of REG.INT.STATUS and its enable in REG.INT.MASK (R47). -/
def bitComplete : Nat := 0

-- the command ids and texture sub-types as the dispatcher reads them (R103)
def cmdIdVertex : CmdId := 0x01#8
def cmdIdTexture : CmdId := 0x02#8
def cmdIdColor : CmdId := 0x03#8
def cmdIdRenderStart : CmdId := 0x10#8
def texSubAddr : BitVec 8 := 0x01#8
def texSubUv : BitVec 8 := 0x02#8
def texSubFormat : BitVec 8 := 0x03#8

/-- The registers whose write R104 gives a row of its own. Bank pci has one row for all its words and bank
interrupt a fallback row, so they are tested by their bank. -/
def namedWrites : List RegName :=
  [regCoreReset, regCoreConfig, regCoreStatus,
   regPolyControl, regPolyVertex, regPolyNormal, regPolyColor, regPolyTexcoord,
   regTexControl, regTexAddr, regTexFormat, regTexFilter,
   regRenderControl, regRenderZbuffer, regRenderBlend,
   regVideoFbaddr, regVideoStride,
   regDmaControl, regDmaSrc, regDmaDest, regDmaCount,
   regIntClear, regIntStatus, regIntMask]

end Sys2Proof.Machine
end

