-- ==== Sys2Proof/Machine/Placement.lean ====
section
/-! DEFINITION. Where banks, registers and bits stand: the rebindable tables `BANK_ID`, `OFF_*` and the bit
positions of spec/00_scope.md R7. The model names a bank, a register and a bit by its number in
spec/10_state.md (R31 to R47), its home; a binding says where the host sees it. Whatever the tables hold, the
map from homes to places is one to one: what a place held goes where its new holder stood
(notes/assumptions/11.md). -/

namespace Sys2Proof.Machine

variable {α : Type} [DecidableEq α]

/-- Two things exchanged, every other left where it is. -/
def exchange (a b x : α) : α := if x = a then b else if x = b then a else x

/-- Exchanges, one after another. -/
def exchangeAll (es : List (α × α)) (x : α) : α := es.foldl (fun y e => exchange e.1 e.2 y) x

/-- The same exchanges, undone. -/
def exchangeBack (es : List (α × α)) (x : α) : α := es.foldr (fun e y => exchange e.1 e.2 y) x

/-- The exchanges that bring each home of a table to the place bound to it, after those already done. -/
def bindingSteps (done : List (α × α)) : List (α × α) → List (α × α)
  | [] => done
  | (home, place) :: rest => bindingSteps (done ++ [(exchangeAll done home, place)]) rest

/-- Where a home stands under a table of (home, place). -/
def placeOf (table : List (α × α)) (home : α) : α := exchangeAll (bindingSteps [] table) home

/-- Which home stands at a place under a table of (home, place). -/
def homeOf (table : List (α × α)) (place : α) : α := exchangeBack (bindingSteps [] table) place

-- banks and registers

/-- `BANK_ID`, by bank (R7, R31). -/
def bankTable (p : Params) : List (BitVec 3 × BitVec 3) :=
  [(bankCore, p.bankId.core), (bankPoly, p.bankId.poly), (bankTex, p.bankId.tex), (bankRender, p.bankId.render),
   (bankPci, p.bankId.pci), (bankVideo, p.bankId.video), (bankDma, p.bankId.dma), (bankInt, p.bankId.interrupt)]

/-- `OFF_*` of the named registers of a bank, by word (R7, R31). -/
def offsetTable (p : Params) (bank : BitVec 3) : List (BitVec 10 × BitVec 10) :=
  if bank = bankCore then
    [(regCoreId.word, p.offset.coreId), (regCoreRevision.word, p.offset.coreRevision),
     (regCoreStatus.word, p.offset.coreStatus), (regCoreConfig.word, p.offset.coreConfig),
     (regCoreReset.word, p.offset.coreReset)]
  else if bank = bankPoly then
    [(regPolyControl.word, p.offset.polyControl), (regPolyVertex.word, p.offset.polyVertex),
     (regPolyNormal.word, p.offset.polyNormal), (regPolyColor.word, p.offset.polyColor),
     (regPolyTexcoord.word, p.offset.polyTexcoord)]
  else if bank = bankTex then
    [(regTexControl.word, p.offset.texControl), (regTexAddr.word, p.offset.texAddr),
     (regTexFormat.word, p.offset.texFormat), (regTexFilter.word, p.offset.texFilter)]
  else if bank = bankRender then
    [(regRenderControl.word, p.offset.renderControl), (regRenderZbuffer.word, p.offset.renderZbuffer),
     (regRenderBlend.word, p.offset.renderBlend)]
  else if bank = bankVideo then
    [(regVideoFbaddr.word, p.offset.videoFbaddr), (regVideoStride.word, p.offset.videoStride)]
  else if bank = bankDma then
    [(regDmaControl.word, p.offset.dmaControl), (regDmaSrc.word, p.offset.dmaSrc),
     (regDmaDest.word, p.offset.dmaDest), (regDmaCount.word, p.offset.dmaCount),
     (regDmaStatus.word, p.offset.dmaStatus)]
  else if bank = bankInt then
    [(regIntStatus.word, p.offset.intStatus), (regIntMask.word, p.offset.intMask),
     (regIntClear.word, p.offset.intClear)]
  else []

/-- Where the host finds a register. -/
def placeReg (p : Params) (r : RegName) : RegName :=
  ⟨placeOf (bankTable p) r.bank, placeOf (offsetTable p r.bank) r.word⟩

/-- Which register the host finds at a bank number and a word. -/
def homeReg (p : Params) (r : RegName) : RegName :=
  let bank := homeOf (bankTable p) r.bank
  ⟨bank, homeOf (offsetTable p bank) r.word⟩

/-- An address of banks 0 to 7 with its bank number and word replaced, its other bits kept; an unaligned
address and one of banks 8 to 15 select no register and stay as they are (R101, R131, R132). -/
def moveAddr (f : RegName → RegName) (a : RegAddr) : RegAddr :=
  if a.extractLsb' 0 2 = 0#2 ∧ a.getLsbD 15 = false then
    let r := f ⟨a.extractLsb' 12 3, a.extractLsb' 2 10⟩
    (a.extractLsb' 16 4 ++ 0#1 ++ r.bank ++ r.word ++ 0#2 : BitVec (4 + 1 + 3 + 10 + 2))
  else a

/-- The home of the register that an address of the host selects: the address the maps of R104 and R105 read. -/
def homeAddr (p : Params) (a : RegAddr) : RegAddr := moveAddr (homeReg p) a

/-- The address at which the host finds the register of a home address. -/
def placeAddr (p : Params) (a : RegAddr) : RegAddr := moveAddr (placeReg p) a

-- bits

/-- The bit positions of the named bits of a register (R7, R33, R35, R36, R40, R44, R46, R47). -/
def bitTable (p : Params) (r : RegName) : List (Nat × Nat) :=
  if r = regCoreStatus then
    [(bitFifoEmpty, p.bits.fifoEmpty.toNat), (bitFifoFull, p.bits.fifoFull.toNat),
     (bitRenderBusy, p.bits.renderBusy.toNat), (bitRenderRunning, p.bits.renderRunning.toNat),
     (bitDmaBusy, p.bits.dmaBusy.toNat), (bitRenderComplete, p.bits.renderComplete.toNat),
     (bitVblank, p.bits.vblank.toNat)]
  else if r = regCoreReset then
    [(bitResetCore, p.bits.resetCore.toNat), (bitResetGeometry, p.bits.resetGeometry.toNat),
     (bitResetTexture, p.bits.resetTexture.toNat), (bitResetRender, p.bits.resetRender.toNat),
     (bitResetDma, p.bits.resetDma.toNat)]
  else if r = regPolyControl then
    [(bitCullCcw, p.bits.cullCcw.toNat), (bitCullCw, p.bits.cullCw.toNat), (bitZtest, p.bits.ztest.toNat),
     (bitGouraud, p.bits.gouraud.toNat), (bitTextured, p.bits.textured.toNat)]
  else if r = regRenderControl then
    [(bitStart, p.bits.renderStart.toNat), (bitReset, p.bits.renderReset.toNat)]
  else if r = regDmaControl then
    [(bitStart, p.bits.dmaStart.toNat), (bitReset, p.bits.dmaReset.toNat)]
  else if r = regDmaStatus then
    [(bitDmaActive, p.bits.dmaActive.toNat), (bitDmaDone, p.bits.dmaDone.toNat)]
  else if r = regIntStatus then [(bitComplete, p.bits.intComplete.toNat)]
  else if r = regIntMask then [(bitComplete, p.bits.intEnable.toNat)]
  else []

/-- The position of a bit of a register, a named one by its number in R33 to R47. -/
def bitPlace (p : Params) (r : RegName) (i : Nat) : Nat := placeOf (bitTable p r) i

/-- `v[i]` (R8). -/
def bitOf (v : Word) (i : Nat) : Bool := v.getLsbD i

/-- A word with one bit changed and the others as they were. -/
def putBit (v : Word) (i : Nat) (b : Bool) : Word :=
  if b then v ||| (1#32 <<< i) else v &&& ~~~(1#32 <<< i)

/-- A named bit of a word as the register `r` lays it out. -/
def namedBit (p : Params) (r : RegName) (v : Word) (i : Nat) : Bool := bitOf v (bitPlace p r i)

end Sys2Proof.Machine
end

