-- ==== Sys2Proof/Machine/Cells.lean ====
section
/-! DEFINITION. Sparse stores: a list of (key, value) pairs in one canonical form, keys strictly rising and
no entry equal to what an unlisted key reads as. The register file, ZBUF and the byte memories are such
lists. -/

namespace Sys2Proof.Machine

/-- A sparse store of n-bit values. -/
abbrev Cells (n : Nat) := List (Nat × BitVec n)

/-- A byte memory: FB's host memory and VRAM (spec/20_memory.md R72, R73). -/
abbrev Memory := List Host.Cell

/-- What an unlisted byte of memory reads as. DESIGN CHOICE, unsafe: notes/assumptions/4.md. -/
def memDefault : Byte := 0#8

/-- The value at a key; `dflt` where no entry lists it. -/
def cellsRead {n : Nat} (dflt : BitVec n) : Cells n → Nat → BitVec n
  | [], _ => dflt
  | (k, v) :: m, a => if k = a then v else cellsRead dflt m a

/-- An entry put at its place in the rising order, in the place of one with the same key. -/
def cellsInsert {n : Nat} (a : Nat) (v : BitVec n) : Cells n → Cells n
  | [] => [(a, v)]
  | (k, w) :: m =>
    if k < a then (k, w) :: cellsInsert a v m
    else if k = a then (a, v) :: m
    else (a, v) :: (k, w) :: m

/-- The store with one value written; writing `dflt` removes the entry. -/
def cellsWrite {n : Nat} (dflt : BitVec n) (m : Cells n) (a : Nat) (v : BitVec n) : Cells n :=
  if v = dflt then m.filter (fun c => decide (c.1 ≠ a)) else cellsInsert a v m

/-- The store with every key that `p` holds of set back to `dflt`. -/
def cellsClear {n : Nat} (p : Nat → Bool) (m : Cells n) : Cells n := m.filter (fun c => !p c.1)

/-- The canonical form: keys strictly rising, no entry equal to `dflt`. -/
def cellsWf {n : Nat} (dflt : BitVec n) (m : Cells n) : Bool :=
  decide (m.Pairwise (fun a b => a.1 < b.1)) && m.all (fun c => decide (c.2 ≠ dflt))

/-- The canonical form of a byte memory. -/
def Memory.wf (m : Memory) : Bool := cellsWf memDefault m

/-- One byte read. -/
def memRead (m : Memory) (a : Nat) : Byte := cellsRead memDefault m a

/-- One byte written. -/
def memWrite (m : Memory) (a : Nat) (v : Byte) : Memory := cellsWrite memDefault m a v

/-- Bytes written at rising addresses from `a`. -/
def memWriteBytes (m : Memory) (a : Nat) : List Byte → Memory
  | [] => m
  | b :: bs => memWriteBytes (memWrite m a b) (a + 1) bs

/-- The n bytes of a value, least significant first: byte k is `v[8k+7:8k]` (R75). -/
def leBytes {w : Nat} (n : Nat) (v : BitVec w) : List Byte :=
  (List.range n).map (fun k => v.extractLsb' (8 * k) 8)

/-- `MemWrite(space, addr, n, v)` (R10, R75). -/
def memWriteLE {w : Nat} (m : Memory) (a n : Nat) (v : BitVec w) : Memory := memWriteBytes m a (leBytes n v)

end Sys2Proof.Machine
end

