-- ==== Sys2Proof/Syntax.lean ====
section
/-! DEFINITION. The instructions: one constructor per row of spec/opcode_table.json. A register access
carries what its format leaves free (R100): the written value, the bank and word where the row is a
fallback, the whole address where the access is rejected (60_exceptions.md R341 records it). A command
carries the fields of its payload (R106 to R110). Address bits 19:16 are ignored by the decode (R71) and
are carried only where the row is a reject row. -/

namespace Sys2Proof

/-- The operations of the block (R104, R105, R103). -/
inductive Instr where
  -- format REGW: a host write (R104)
  /-- CORE.RESET, R135. -/
  | coreReset (value : Word)
  /-- CORE.CONFIG, R138. -/
  | coreConfig (value : Word)
  /-- CORE.STATUS, a write of the read-only register, R139. -/
  | coreStatus (value : Word)
  /-- POLY.CONTROL, R141. -/
  | polyControl (value : Word)
  /-- POLY.VERTEX, R142. -/
  | polyVertex (value : Word)
  /-- POLY.NORMAL, R143. -/
  | polyNormal (value : Word)
  /-- POLY.COLOR, R144. -/
  | polyColor (value : Word)
  /-- POLY.TEXCOORD, R145. -/
  | polyTexcoord (value : Word)
  /-- TEX.CONTROL, R146. -/
  | texControl (value : Word)
  /-- TEX.ADDR, R147. -/
  | texAddr (value : Word)
  /-- TEX.FORMAT, R149. -/
  | texFormat (value : Word)
  /-- TEX.FILTER, R148. -/
  | texFilter (value : Word)
  /-- RENDER.CONTROL, R150. -/
  | renderControl (value : Word)
  /-- RENDER.ZBUFFER, R153. -/
  | renderZbuffer (value : Word)
  /-- RENDER.BLEND, R153. -/
  | renderBlend (value : Word)
  /-- PCI.STORE, R140: any word of bank 4. -/
  | pciStore (word : BitVec 10) (value : Word)
  /-- VIDEO.FBADDR, R155. -/
  | videoFbaddr (value : Word)
  /-- VIDEO.STRIDE, R154. -/
  | videoStride (value : Word)
  /-- DMA.CONTROL, R159. -/
  | dmaControl (value : Word)
  /-- DMA.SRC, R162. -/
  | dmaSrc (value : Word)
  /-- DMA.DEST, R162. -/
  | dmaDest (value : Word)
  /-- DMA.COUNT, R162. -/
  | dmaCount (value : Word)
  /-- INT.CLEAR, R163. -/
  | intClear (value : Word)
  /-- INT.STATUS, R164. -/
  | intStatus (value : Word)
  /-- INT.MASK, R164. -/
  | intMask (value : Word)
  /-- INT.STORE, R164: every other word of bank 7. -/
  | intStore (word : BitVec 10) (value : Word)
  /-- REG.STORE, R134: every other word of banks 0 to 7. -/
  | regStore (bank : BitVec 3) (word : BitVec 10) (value : Word)
  /-- REG.UNALIGNED.WR, R131. -/
  | regUnalignedWr (addr : RegAddr) (value : Word)
  /-- REG.UNKNOWN.WR, R132. -/
  | regUnknownWr (addr : RegAddr) (value : Word)
  -- format REGR: a host read (R105)
  /-- CORE.STATUS.RD, R157. -/
  | coreStatusRd
  /-- REG.LOAD, R156: every other word of banks 0 to 7. -/
  | regLoad (bank : BitVec 3) (word : BitVec 10)
  /-- REG.UNALIGNED.RD, R156. -/
  | regUnalignedRd (addr : RegAddr)
  /-- REG.UNKNOWN.RD, R156. -/
  | regUnknownRd (addr : RegAddr)
  -- format CMD: a command word of the FIFO (R103)
  /-- CMD.VERTEX, R211: `XRAW`, `YRAW`, `ZRAW`. -/
  | cmdVertex (xraw yraw : BitVec 10) (zraw : BitVec 12)
  /-- CMD.TEX.ADDR, R213: `ARG`. -/
  | cmdTexAddr (arg : BitVec 24)
  /-- CMD.TEX.UV, R214: `URAW`, `VRAW`. -/
  | cmdTexUv (uraw vraw : BitVec 12)
  /-- CMD.TEX.FORMAT, R215: `ARG`. -/
  | cmdTexFormat (arg : BitVec 24)
  /-- CMD.TEX.UNKNOWN, R217: an unknown sub-type, `ARG`. -/
  | cmdTexUnknown (subtype : BitVec 8) (arg : BitVec 24)
  /-- CMD.COLOR, R216: `R8`, `G8`, `B8`, `A8`. -/
  | cmdColor (r8 g8 b8 a8 : BitVec 8)
  /-- CMD.RENDER_START, R218: the ignored payload. -/
  | cmdRenderStart (data : Word)
  /-- CMD.UNKNOWN, R219: an unknown command id, the ignored payload. -/
  | cmdUnknown (cmd : CmdId) (data : Word)
  deriving DecidableEq, Repr

end Sys2Proof
end

