-- ==== Sys2Proof/Machine/Types.lean ====
section
/-! DEFINITION. The parts of the state: vertex slots, polygons, tiles, the FIFO, the binding of FB, the
host's events and what goes out on the ports (spec/10_state.md). -/

namespace Sys2Proof.Machine

/-- A vertex slot (R23). `zraw` is the raw depth, z = zraw / 4096. -/
structure Slot where
  x : Rat
  y : Rat
  z : Rat
  w : Rat
  zraw : BitVec 12
  color : Rgba
  u : Rat
  v : Rat
  deriving DecidableEq, Repr

/-- The reset value of a slot: every component 0, w = 1 (R23). -/
def Slot.zero : Slot := ⟨0, 0, 0, 1, 0#12, ⟨0, 0, 0, 0⟩, 0, 0⟩

/-- The three vertex slots `V[0]`, `V[1]`, `V[2]` (R23). -/
structure Slots where
  v0 : Slot
  v1 : Slot
  v2 : Slot
  deriving DecidableEq, Repr

/-- `V[i]`. -/
def slotAt (vs : Slots) (i : Fin 3) : Slot :=
  if i = 0 then vs.v0 else if i = 1 then vs.v1 else vs.v2

/-- `V[i] <- x`. -/
def putSlotAt (vs : Slots) (i : Fin 3) (x : Slot) : Slots :=
  if i = 0 then { vs with v0 := x } else if i = 1 then { vs with v1 := x } else { vs with v2 := x }

/-- A polygon of the polygon buffer (R27). -/
structure Polygon where
  v : Slots
  texAddr : Word
  flags : Word
  zkey : Nat
  numVertices : Nat
  deriving DecidableEq, Repr

/-- The current texture descriptor (R26). -/
structure TexDesc where
  format : BitVec 4
  width : Nat
  height : Nat
  deriving DecidableEq, Repr

/-- A tile: its rectangle, and the polygon-buffer indices appended to it, oldest first (R28). -/
structure Tile where
  x : Nat
  y : Nat
  w : Nat
  h : Nat
  list : List Nat
  deriving DecidableEq, Repr

/-- A FIFO entry (R49, R102). -/
structure FifoEntry where
  cmd : CmdId
  data : Word
  deriving DecidableEq, Repr

/-- The command FIFO: a ring buffer with read and write cursors and an entry counter (R49). -/
structure Fifo where
  entry : List FifoEntry
  rd : Nat
  wr : Nat
  count : Nat
  deriving DecidableEq, Repr

/-- The live entries, oldest first: those at `rd`, `rd + 1`, ... modulo the capacity (R49). -/
def fifoLive (capacity : Nat) (f : Fifo) : List FifoEntry :=
  (List.range f.count).map (fun k => f.entry.getD ((f.rd + k) % capacity) ⟨0#8, 0#32⟩)

/-- Which memory holds the bytes of FB (R72, R73, `FB_BINDING`). -/
inductive FbStore where
  /-- host memory that is no part of VRAM: the disjoint binding. -/
  | host
  /-- a window of VRAM. -/
  | vram
  deriving DecidableEq, Repr

/-- The binding of the address space FB: byte a of FB is byte `base + a` of its memory, for a below
`size` (R51, R72). -/
structure FbRef where
  store : FbStore
  base : Nat
  size : Nat
  deriving DecidableEq, Repr

/-- What an unlisted sample of ZBUF is: the clear value, or the unspecified contents of an allocation. -/
inductive ZFill where
  /-- after the clear of `render_scene` (R255): 0xFFFF. -/
  | cleared
  /-- after the n-th allocation (R321): a free value. -/
  | fresh (allocation : Nat)
  deriving DecidableEq, Repr

/-- The host's side of the ports: what can happen to the block, one at a time (R20, R60, R114, R325). -/
inductive HostEvent where
  /-- `write(addr, value)`. -/
  | write (addr : RegAddr) (value : Word)
  /-- `read(addr)`. -/
  | read (addr : RegAddr)
  /-- the callback of the host's delay timer. -/
  | timerFire
  /-- `update_display(width, height, stride, bpp, framebuffer_ref)`. -/
  | updateDisplay (width height stride bpp : Nat) (fb : FbRef)
  /-- `init(display_params)`. -/
  | init (width height stride bpp : Nat) (fb : FbRef)
  /-- `close`. -/
  | close
  /-- a change of the sampled input `crt_vblank`. -/
  | vblank (level : Bool)
  deriving DecidableEq, Repr

/-- A diagnostic with what it records (spec/60_exceptions.md R341). -/
inductive Diag where
  /-- a rejected access; the value for a write, none for a read. -/
  | unaligned (addr : RegAddr) (value : Option Word)
  | unknownReg (addr : RegAddr) (isWrite : Bool)
  | statusWrite (value : Word)
  | fifoFull (cmd : CmdId) (data : Word)
  | unknownCmd (cmd : CmdId) (data : Word)
  | dmaRange (src dst size : Nat)
  | polyOverflow
  deriving DecidableEq, Repr

/-- The code of a diagnostic (R341). -/
def diagCode : Diag → Nat
  | .unaligned _ _ => 1
  | .unknownReg _ _ => 2
  | .statusWrite _ => 3
  | .fifoFull _ _ => 4
  | .unknownCmd _ _ => 5
  | .dmaRange _ _ _ => 6
  | .polyOverflow => 7

/-- What a DMA copy gives where its source and destination overlap: the two results that R303 and U7 name.
`snapshot` is the text of R303, `forward` the byte-by-byte copy; they agree when the ranges are disjoint. -/
inductive DmaOverlap where
  | snapshot
  | forward
  deriving DecidableEq, Repr

/-- What goes out on the ports (R60). The byte writes of the port `fb` and the accesses of `vram` are in
the memories. -/
inductive PortEvent where
  /-- the 32 bits a `read` returns. -/
  | readData (value : Word)
  /-- `diag`. -/
  | diag (d : Diag)
  /-- `timer_arm` with its delay. -/
  | timerArm (delayUs : Nat)
  /-- `display_start`. -/
  | displayStart (addr : Word)
  /-- `frame_changed`. -/
  | frameChanged
  deriving DecidableEq, Repr

end Sys2Proof.Machine
end

