-- ==== Sys2Proof/Machine/Seeds.lean ====
section
/-! DEFINITION. The values that `init` and the full reset give, as functions of the parameters and of the
display (spec/10_state.md R56, spec/46_timer_display.md R321), shared by `State.reset` and the reset
operations. -/

namespace Sys2Proof.Machine

/-- What an unlisted register word reads as: 0 (R48, R56). -/
def regDefault : Word := 0#32

/-- REG.CORE.STATUS after a full reset: FIFO_EMPTY set and no other bit (R33, R56); 0x00000001 with the default
positions. -/
def statusSeed (p : Params) : Word := putBit 0#32 (bitPlace p regCoreStatus bitFifoEmpty) true

/-- `REG` after a full reset: every word 0 but the seeded ones (R56). -/
def seedRegs (p : Params) : Cells 32 :=
  [(regCoreId, p.chipId), (regCoreRevision, p.chipRevision), (regCoreStatus, statusSeed p),
   (regCoreConfig, p.configDefault), (regTexControl, p.texControlDefault), (regTexFormat, p.texFormatDefault),
   (regTexFilter, p.texFilterDefault), (regRenderZbuffer, p.zbufferDefault),
   (regRenderBlend, p.blendDefault)].foldl
    (fun m e => cellsWrite regDefault m e.1.key e.2) []

/-- The tile size of a CONFIG word: 8 shifted left by its bits[1:0] (R34). -/
def tileSizeOf (config : Word) : Nat := 8 <<< (config.extractLsb' 0 2).toNat

/-- The texture descriptor of a FORMAT word: the three bits of `SIZE_CODE`, by default bits[2:0], give both
dimensions, the four bits of `FMT`, by default bits[7:4], the format (R39, R149). -/
def decodeTexFormat (p : Params) (v : Word) : TexDesc :=
  let size := 8 <<< (v.extractLsb' p.bits.texSizeCode.toNat 3).toNat
  ⟨v.extractLsb' p.bits.texFmt.toNat 4, size, size⟩

/-- `ceil(n / ts)` for naturals. -/
def ceilDiv (n ts : Nat) : Nat := (n + ts - 1) / ts

/-- The tiles of a w by h display at tile size ts, row-major, every list empty (R321). -/
def gridTiles (ts w h : Nat) : List Tile :=
  (List.range (ceilDiv h ts)).flatMap fun j =>
    (List.range (ceilDiv w ts)).map fun i =>
      ⟨i * ts, j * ts, min ts (w - i * ts), min ts (h - j * ts), []⟩

end Sys2Proof.Machine
end

