-- ==== Sys2Proof/Machine/State.lean ====
section
/-! DEFINITION. The state of the block: everything spec/10_state.md gives it, as plain data, and the state
right after reset. -/

namespace Sys2Proof.Machine

/-- The block has no fault state: "no sequence of accesses puts it into a state from which the rules stop
applying" (spec/60_exceptions.md R345). No constructor, raised by no one: neither safe nor unsafe. -/
inductive Fault where
  deriving DecidableEq, Repr

/-- Where the model has no transition. -/
inductive Refusal where
  /-- Raised by `exec` for an instruction that has no meaning yet. Safe. -/
  | notModelled (mnemonic : String)
  /-- Raised by the pixel write of a render whose bytes lie beyond the bound FB: "the model's
  MemWrite(FB, ...) has no transition outside the bound space" (U5, R72). Safe. -/
  | fbOutsideBinding
  /-- Raised by a DMA start whose validation passes and whose source runs beyond VRAM: "should treat the
  operation as refused" (R303, U6). Safe. -/
  | dmaSourceBeyondVram
  /-- Raised by the step for a timer fire while the timer is not armed: the step is not enabled (R316,
  U12). Safe. -/
  | timerNotArmed
  /-- Raised by the step for an event after `close` other than `init`: the run has ended (R325). Safe. -/
  | blockClosed
  /-- Raised by the step when the host has done nothing: no step of R20 happens. Safe. -/
  | noHostEvent
  deriving DecidableEq, Repr

/-- The state. -/
structure State where
  /-- The parameters of R7; no step changes them. -/
  cfg : Params
  /-- The register file `REG[0..7][0..1023]` (R30), sparse, an unlisted word 0. -/
  regs : Cells 32
  /-- The vertex slots (R23). -/
  slots : Slots
  /-- The number of vertex positions received, the index of the open slot (R24). -/
  vcount : Fin 3
  /-- `cur_flags` (R25). -/
  curFlags : Word
  /-- `tex_addr` (R26). -/
  texAddr : Word
  /-- `tex_control` (R26). -/
  texControl : Word
  /-- `tex_format_bits` (R26). -/
  texFormatBits : Word
  /-- `tex_filter` (R26). -/
  texFilter : Word
  /-- `tex_desc` (R26). -/
  texDesc : TexDesc
  /-- The live entries of the polygon buffer; `poly_count` is their number (R27). -/
  polys : List Polygon
  /-- `tile_size` (R28). -/
  tileSize : Nat
  /-- `tiles_x` (R28). -/
  tilesX : Nat
  /-- `tiles_y` (R28). -/
  tilesY : Nat
  /-- The tiles in row-major order (R28). -/
  tiles : List Tile
  /-- ZBUF (R29): the samples that differ from what `zfill` says of the unlisted ones. -/
  zbuf : Cells 16
  /-- What an unlisted sample of ZBUF is (the model's own field). -/
  zfill : ZFill
  /-- How many times ZBUF was allocated (the model's own counter of free values). -/
  zallocs : Nat
  /-- What an overlapping DMA copy gives (R303, U7; the model's own field, which no step changes). -/
  dmaOverlap : DmaOverlap
  /-- The command FIFO (R49). -/
  fifo : Fifo
  /-- Display width in pixels (R51). -/
  width : Nat
  /-- Display height in pixels (R51). -/
  height : Nat
  /-- The pipeline's stride in pixels (R51). -/
  stride : Nat
  /-- Bit depth (R51). -/
  bpp : Nat
  /-- The binding of FB (R51). -/
  fb : FbRef
  /-- Mirror `render_control` (R52). -/
  renderControl : Word
  /-- Mirror `render_zbuffer` (R52). -/
  renderZbuffer : Word
  /-- Mirror `render_blend` (R52). -/
  renderBlend : Word
  /-- Mirror `dma_control` (R52). -/
  dmaControl : Word
  /-- Mirror `dma_src` (R52). -/
  dmaSrc : Word
  /-- Mirror `dma_dest` (R52). -/
  dmaDest : Word
  /-- Mirror `dma_count` (R52). -/
  dmaCount : Word
  /-- `timer_armed` (R53). -/
  timerArmed : Bool
  /-- The host's pixel memory (R72). -/
  hostMem : Memory
  /-- VRAM (R73). -/
  vram : Memory
  /-- The last value given on the output `display_start` (R60, R155). -/
  displayStart : Word
  /-- The sampled input `crt_vblank` (R60, R157). -/
  crtVblank : Bool
  /-- `close` has ended the block's life (R325). -/
  closed : Bool
  /-- The host's events not yet taken, oldest first (the model's own field). -/
  inbox : List HostEvent
  /-- What the output ports gave, newest first (the model's own record of the ports, R60, R340). -/
  out : List PortEvent
  deriving DecidableEq, Repr

/-- `poly_count` (R27). -/
def State.polyCount (s : State) : Nat := s.polys.length

/-- The machine right after reset: R56 with the assumed parameters and the display of 95_test_vectors.md
section 0, `INIT 64, 64, 64, 32`. Nothing is queued, nothing is armed, no event waits.
DESIGN CHOICE where the spec gives no value: notes/assumptions/1.md, 2, 4, 5, 6, 8 and 16. -/
def State.reset : State where
  cfg := Params.assumed
  regs := seedRegs Params.assumed
  slots := ⟨Slot.zero, Slot.zero, Slot.zero⟩
  vcount := 0
  curFlags := 0#32
  texAddr := 0#32
  texControl := Params.assumed.texControlDefault
  texFormatBits := Params.assumed.texFormatDefault
  texFilter := Params.assumed.texFilterDefault
  texDesc := decodeTexFormat Params.assumed Params.assumed.texFormatDefault
  polys := []
  tileSize := tileSizeOf Params.assumed.configDefault
  tilesX := ceilDiv 64 (tileSizeOf Params.assumed.configDefault)
  tilesY := ceilDiv 64 (tileSizeOf Params.assumed.configDefault)
  tiles := gridTiles (tileSizeOf Params.assumed.configDefault) 64 64
  zbuf := []
  zfill := .fresh 0
  zallocs := 1
  dmaOverlap := .snapshot
  fifo := ⟨List.replicate Params.assumed.fifoCapacity ⟨0#8, 0#32⟩, 0, 0, 0⟩
  width := 64
  height := 64
  stride := 64
  bpp := 32
  fb := ⟨.host, 0, 16384⟩
  renderControl := 0#32
  renderZbuffer := Params.assumed.zbufferDefault
  renderBlend := Params.assumed.blendDefault
  dmaControl := 0#32
  dmaSrc := 0#32
  dmaDest := 0#32
  dmaCount := 0#32
  timerArmed := false
  hostMem := []
  vram := []
  displayStart := 0#32
  crtVblank := false
  closed := false
  inbox := []
  out := []

end Sys2Proof.Machine
end

