-- ==== Sys2Proof/Machine/Ops.lean ====
section
/-! DEFINITION. The named operations over registers, memories and ports that every meaning is built from. -/

namespace Sys2Proof.Machine

/-- What a step, or a part of one, answers. -/
abbrev Result := Host.Outcome State Fault Refusal

/-- One operation after another: statements take effect in the order written (R11); a refusal ends the
step. -/
def andThen (o : Result) (f : State → Result) : Result :=
  match o with
  | .next s => f s
  | .fault r => .fault r
  | .refused r => .refused r

-- registers

/-- `REG[b][i]` (R10). -/
def getReg (s : State) (r : RegName) : Word := cellsRead regDefault s.regs r.key

/-- `REG[b][i] <- v` (R10). -/
def setReg (r : RegName) (v : Word) (s : State) : State :=
  { s with regs := cellsWrite regDefault s.regs r.key v }

/-- `for i in 0..1023: REG[b][i] <- 0` (R137, R152, R161). -/
def clearBank (b : BitVec 3) (s : State) : State :=
  { s with regs := cellsClear (fun k => k / 1024 == b.toNat) s.regs }

-- ports

/-- Something goes out on a port (R60). -/
def emit (e : PortEvent) (s : State) : State := { s with out := e :: s.out }

/-- `diag(E_x)`: the block's only form of exception. It records the event on the port and changes nothing
else; no state is saved, control goes nowhere, and there is nothing to return from (R340, R344, R345). -/
def diag (d : Diag) (s : State) : State := emit (.diag d) s

/-- `arm_timer()`: `timer_armed <- true` and a request on the port `timer_arm` (R315). -/
def armTimer (s : State) : State :=
  emit (.timerArm s.cfg.timerLatencyUs) { s with timerArmed := true }

/-- The value a host `read` returns (R60, R156). -/
def returnData (v : Word) (s : State) : State := emit (.readData v) s

-- memories

/-- One byte of VRAM. -/
def vramByte (s : State) (a : Nat) : Byte := memRead s.vram a

/-- One byte of the host's pixel memory. -/
def hostByte (s : State) (a : Nat) : Byte := memRead s.hostMem a

/-- The memory that holds the bytes of FB (R72, R73). -/
def fbMemory (s : State) : Memory :=
  match s.fb.store with
  | .host => s.hostMem
  | .vram => s.vram

/-- The state with the memory that holds FB replaced. -/
def setFbMemory (m : Memory) (s : State) : State :=
  match s.fb.store with
  | .host => { s with hostMem := m }
  | .vram => { s with vram := m }

/-- How many bytes of FB exist: the bound size, and for a window of VRAM no byte beyond VRAM (R72, R73). -/
def fbLimit (s : State) : Nat :=
  match s.fb.store with
  | .host => s.fb.size
  | .vram => min s.fb.size (s.cfg.vramSize - s.fb.base)

/-- One byte of FB, as a byte reader of the bound buffer sees it (R76). -/
def fbByte (s : State) (a : Nat) : Byte := memRead (fbMemory s) (s.fb.base + a)

/-- The value of a sample of ZBUF after the clear of `render_scene`: "max depth" (R255). -/
def depthClear : Depth := 0xFFFF#16

/-- One sample of ZBUF (R29): listed, or the clear value, or a free value of the allocation. -/
def zSample (s : State) (k : Nat) : Depth :=
  match s.zfill with
  | .cleared => cellsRead depthClear s.zbuf k
  | .fresh n => Config.freeDepth n k

-- the grid and the full reset

/-- `build_grid(w, h)` (R321): new tiles at the current tile size, every list empty, a fresh ZBUF of
unspecified contents. -/
def buildGrid (w h : Nat) (s : State) : State :=
  { s with
    tilesX := ceilDiv w s.tileSize
    tilesY := ceilDiv h s.tileSize
    tiles := gridTiles s.tileSize w h
    zbuf := []
    zfill := .fresh s.zallocs
    zallocs := s.zallocs + 1 }

/-- What `full_reset()` does before it rebuilds the grid (R136): the registers seeded, the FIFO emptied, the
pipeline's own state at its `init` values. The display, the FB binding, `timer_armed`, the memories and the
outputs already given are kept (R372). -/
def resetPipeline (s : State) : State :=
  { s with
    regs := seedRegs s.cfg
    fifo := { s.fifo with rd := 0, wr := 0, count := 0 }
    vcount := 0
    slots := ⟨Slot.zero, Slot.zero, Slot.zero⟩
    curFlags := 0#32
    texAddr := 0#32
    texControl := s.cfg.texControlDefault
    texFilter := s.cfg.texFilterDefault
    texFormatBits := s.cfg.texFormatDefault
    texDesc := decodeTexFormat s.cfg s.cfg.texFormatDefault
    renderControl := 0#32
    renderZbuffer := s.cfg.zbufferDefault
    renderBlend := s.cfg.blendDefault
    dmaControl := 0#32
    dmaSrc := 0#32
    dmaDest := 0#32
    dmaCount := 0#32
    polys := []
    tileSize := tileSizeOf s.cfg.configDefault }

/-- `full_reset()` (R136). -/
def fullReset (s : State) : State := buildGrid s.width s.height (resetPipeline s)

end Sys2Proof.Machine
end

