-- ==== Sys2Proof/Machine/Flags.lean ====
section
/-! DEFINITION. Single bits of registers: the flags of REG.CORE.STATUS, REG.DMA.STATUS and REG.INT.STATUS
(spec/10_state.md R33, R46, R47, R50), and the enables and request bits that other rules read. -/

namespace Sys2Proof.Machine

/-- One bit of a register, wherever it is placed. -/
def regBit (s : State) (r : RegName) (i : Nat) : Bool := namedBit s.cfg r (getReg s r) i

/-- One bit of a register changed, the others as they were (R10). -/
def setRegBit (r : RegName) (i : Nat) (b : Bool) (s : State) : State :=
  setReg r (putBit (getReg s r) (bitPlace s.cfg r i) b) s

/-- `STATUS.<BIT>` (R10). -/
def statusBit (s : State) (i : Nat) : Bool := regBit s regCoreStatus i

/-- `STATUS.<BIT> <- b` (R10). -/
def setStatus (i : Nat) (b : Bool) (s : State) : State := setRegBit regCoreStatus i b s

/-- "clear busy flags" of a render bank reset: the two render bits (R152, D7). -/
def clearRenderBusy (s : State) : State := setStatus bitRenderRunning false (setStatus bitRenderBusy false s)

/-- The busy and running flags that a render start raises (R218). -/
def raiseRenderBusy (s : State) : State := setStatus bitRenderRunning true (setStatus bitRenderBusy true s)

/-- `drain_gate_open()`: no render and no DMA is in its busy window; RENDER_BUSY is no part of it (R192). -/
def drainGateOpen (s : State) : Bool := !statusBit s bitRenderRunning && !statusBit s bitDmaBusy

/-- The completion interrupt: `REG.INT.STATUS[0] <- 1` when `REG.INT.MASK[0]` = 1 (R316, R347). -/
def raiseCompletion (s : State) : State :=
  if regBit s regIntMask bitComplete then setRegBit regIntStatus bitComplete true s else s

/-- The flags a timer fire writes before it drains (R316). -/
def fireFlags (s : State) : State :=
  raiseCompletion (setStatus bitRenderComplete true (setStatus bitDmaBusy false
    (setStatus bitRenderBusy false (setStatus bitRenderRunning false s))))

end Sys2Proof.Machine
end

