-- ==== Sys2Proof/Machine/CoreBank.lean ====
section
/-! DEFINITION. The meanings of the writes to bank core, of the passive stores, and of the rejected
accesses (spec/40_register_frontend.md sections 1 to 3). -/

namespace Sys2Proof.Machine

/-- A bank cleared when a bit of a value of REG.CORE.RESET is set. -/
def clearBankIf (v : Word) (bit : Nat) (bank : BitVec 3) (s : State) : State :=
  if namedBit s.cfg regCoreReset v bit then clearBank bank s else s

/-- `partial_resets(value)`: the words of the named banks become 0, and nothing else (R137). -/
def partialResets (v : Word) (s : State) : State :=
  clearBankIf v bitResetDma bankDma (clearBankIf v bitResetRender bankRender
    (clearBankIf v bitResetTexture bankTex (clearBankIf v bitResetGeometry bankPoly s)))

/-- CORE.RESET (R135): a full reset, its value not stored; or the value stored and the partial resets. -/
def execCoreReset (value : Word) (s : State) : Result :=
  if namedBit s.cfg regCoreReset value bitResetCore then .next (fullReset s)
  else .next (partialResets value (setReg regCoreReset value s))

/-- CORE.CONFIG (R138): stored; the tile size re-derived; the grid not rebuilt. -/
def execCoreConfig (value : Word) (s : State) : Result :=
  .next { setReg regCoreConfig value s with tileSize := tileSizeOf value }

/-- CORE.STATUS, written (R139): rejected, logged. -/
def execCoreStatus (value : Word) (s : State) : Result := .next (diag (.statusWrite value) s)

/-- PCI.STORE (R140). -/
def execPciStore (word : BitVec 10) (value : Word) (s : State) : Result :=
  .next (setReg ⟨bankPci, word⟩ value s)

/-- REG.STORE (R134). -/
def execRegStore (bank : BitVec 3) (word : BitVec 10) (value : Word) (s : State) : Result :=
  .next (setReg ⟨bank, word⟩ value s)

/-- REG.UNALIGNED.WR (R131): logged, no state changes. -/
def execRegUnalignedWr (addr : RegAddr) (value : Word) (s : State) : Result :=
  .next (diag (.unaligned addr (some value)) s)

/-- REG.UNKNOWN.WR (R132): logged, no state changes. -/
def execRegUnknownWr (addr : RegAddr) (_value : Word) (s : State) : Result :=
  .next (diag (.unknownReg addr true) s)

end Sys2Proof.Machine
end

