-- ==== Sys2Proof/Machine/Dma.lean ====
section
/-! DEFINITION. The DMA engine (spec/45_dma.md). -/

namespace Sys2Proof.Machine

/-- A copy that reads every byte as it stood before the copy began: `old(...)` of R303. -/
def copySnapshot (old : Memory) (src dst : Nat) : Nat → Memory → Memory
  | 0, m => m
  | n + 1, m => memWrite (copySnapshot old src dst n m) (dst + n) (memRead old (src + n))

/-- A copy that reads each byte just before it writes the next, from the lowest on: the other result that
U7 names. -/
def copyForward (src dst : Nat) : Nat → Memory → Memory
  | 0, m => m
  | n + 1, m =>
    let m1 := copyForward src dst n m
    memWrite m1 (dst + n) (memRead m1 (src + n))

/-- The bytes a copy leaves in VRAM (R303, U7). The two agree when the ranges are disjoint. -/
def dmaCopy (how : DmaOverlap) (src dst size : Nat) (m : Memory) : Memory :=
  match how with
  | .snapshot => copySnapshot m src dst size m
  | .forward => copyForward src dst size m

/-- `size <- min(REG.DMA.COUNT, 16777216)` (R301). -/
def dmaSize (s : State) : Nat := min (getReg s regDmaCount).toNat dmaMax

/-- `src <- REG.DMA.SRC` (R301). -/
def dmaSource (s : State) : Nat := (getReg s regDmaSrc).toNat

/-- `dst <- REG.DMA.DEST` (R301). -/
def dmaTarget (s : State) : Nat := (getReg s regDmaDest).toNat

/-- The validation (R302): naturals, no wrap-around, no check of the source's end. -/
def dmaValid (s : State) : Bool :=
  decide (dmaSource s < s.cfg.vramSize) && decide (dmaTarget s < s.cfg.vramSize) &&
    decide (dmaTarget s + dmaSize s ≤ s.cfg.vramSize)

/-- The source runs beyond VRAM (U6). -/
def dmaOverrun (s : State) : Bool := decide (s.cfg.vramSize < dmaSource s + dmaSize s)

/-- The busy flags a start raises (R300). -/
def dmaBegin (s : State) : State := setRegBit regDmaStatus bitDmaActive true (setStatus bitDmaBusy true s)

/-- The conclusion, the same after a copy and after a skip (R304). -/
def dmaConclude (s : State) : State :=
  armTimer (setRegBit regDmaStatus bitDmaDone true (setRegBit regDmaStatus bitDmaActive false s))

/-- Copy or skip (R303); refused where the copy would read beyond VRAM (U6). -/
def dmaTransfer (s : State) : Result :=
  if dmaValid s then
    if dmaOverrun s then .refused .dmaSourceBeyondVram
    else .next { s with vram := dmaCopy s.dmaOverlap (dmaSource s) (dmaTarget s) (dmaSize s) s.vram }
  else .next (diag (.dmaRange (dmaSource s) (dmaTarget s) (dmaSize s)) s)

/-- `dma_start()` (R160, R300 to R304). -/
def dmaStart (s : State) : Result := andThen (dmaTransfer (dmaBegin s)) fun s1 => .next (dmaConclude s1)

/-- `dma_bank_reset()` (R161). -/
def dmaBankReset (s : State) : State := setStatus bitDmaBusy false (clearBank bankDma s)

end Sys2Proof.Machine
end

