-- ==== Sys2Proof/Machine/DmaIntBanks.lean ====
section
/-! DEFINITION. The meanings of the writes to banks dma and interrupt (spec/40_register_frontend.md sections
9 and 10). -/

namespace Sys2Proof.Machine

/-- DMA.CONTROL (R159): stored and mirrored; START first, then RESET, each on its own bit. -/
def execDmaControl (value : Word) (s : State) : Result :=
  let s1 : State := { setReg regDmaControl value s with dmaControl := value }
  andThen (if namedBit s.cfg regDmaControl value bitStart then dmaStart s1 else .next s1) fun s2 =>
    .next (if namedBit s.cfg regDmaControl value bitReset then dmaBankReset s2 else s2)

/-- DMA.SRC (R162). -/
def execDmaSrc (value : Word) (s : State) : Result :=
  .next { setReg regDmaSrc value s with dmaSrc := value }

/-- DMA.DEST (R162). -/
def execDmaDest (value : Word) (s : State) : Result :=
  .next { setReg regDmaDest value s with dmaDest := value }

/-- DMA.COUNT (R162). -/
def execDmaCount (value : Word) (s : State) : Result :=
  .next { setReg regDmaCount value s with dmaCount := value }

/-- INT.CLEAR (R163): write one to clear in REG.INT.STATUS; REG.INT.CLEAR itself is not written. -/
def execIntClear (value : Word) (s : State) : Result :=
  .next (setReg regIntStatus (getReg s regIntStatus &&& ~~~value) s)

/-- INT.STATUS (R164): a passive store. -/
def execIntStatus (value : Word) (s : State) : Result := .next (setReg regIntStatus value s)

/-- INT.MASK (R164): a passive store; no status bit changes by itself. -/
def execIntMask (value : Word) (s : State) : Result := .next (setReg regIntMask value s)

/-- INT.STORE (R164): a passive store to another word of bank interrupt. -/
def execIntStore (word : BitVec 10) (value : Word) (s : State) : Result :=
  .next (setReg ⟨bankInt, word⟩ value s)

end Sys2Proof.Machine
end

