-- ==== Sys2Proof/WellFormed.lean ====
section
/-! DEFINITION. Which terms of `Instr` stand for an encoding: the fallback and reject rows carry fields
that a more specific row may claim (spec/30_encoding.md R101, R103 to R105, R116). -/

namespace Sys2Proof

open Machine

/-- `ALIGN`: `addr[1:0]` (R100). -/
def addrAlign (a : RegAddr) : BitVec 2 := a.extractLsb' 0 2

/-- `addr[15]`: set exactly when `BANK` is 8 or more (R132). -/
def addrBankHigh (a : RegAddr) : Bool := a.getLsbD 15

/-- A well-formed instruction: one that some access or command word decodes to. -/
def Instr.wf : Instr → Bool
  | .intStore w _ => decide (RegName.mk bankInt w ∉ namedWrites)
  | .regStore b w _ => decide (RegName.mk b w ∉ namedWrites) && decide (b ≠ bankPci) && decide (b ≠ bankInt)
  | .regUnalignedWr a _ => decide (addrAlign a ≠ 0#2)
  | .regUnknownWr a _ => decide (addrAlign a = 0#2) && addrBankHigh a
  | .regLoad b w => decide (RegName.mk b w ≠ regCoreStatus)
  | .regUnalignedRd a => decide (addrAlign a ≠ 0#2)
  | .regUnknownRd a => decide (addrAlign a = 0#2) && addrBankHigh a
  | .cmdTexUnknown sub _ => decide (sub ∉ [texSubAddr, texSubUv, texSubFormat])
  | .cmdUnknown c _ => decide (c ∉ [cmdIdVertex, cmdIdTexture, cmdIdColor, cmdIdRenderStart])
  | .coreReset _ | .coreConfig _ | .coreStatus _ => true
  | .polyControl _ | .polyVertex _ | .polyNormal _ | .polyColor _ | .polyTexcoord _ => true
  | .texControl _ | .texAddr _ | .texFormat _ | .texFilter _ => true
  | .renderControl _ | .renderZbuffer _ | .renderBlend _ => true
  | .pciStore _ _ => true
  | .videoFbaddr _ | .videoStride _ => true
  | .dmaControl _ | .dmaSrc _ | .dmaDest _ | .dmaCount _ => true
  | .intClear _ | .intStatus _ | .intMask _ => true
  | .coreStatusRd => true
  | .cmdVertex _ _ _ | .cmdTexAddr _ | .cmdTexUv _ _ | .cmdTexFormat _ => true
  | .cmdColor _ _ _ _ | .cmdRenderStart _ => true

end Sys2Proof
end

