-- ==== Sys2Proof/Decode.lean ====
section
/-! DEFINITION. The decoder of register accesses and command words, and the encoder
(spec/30_encoding.md). -/

namespace Sys2Proof

open Machine

/-- The three formats (R100, R102): a host write, a host read, the 40-bit command word `cmd ‖ data` of a
FIFO entry. -/
inductive Access where
  | regw (addr : RegAddr) (value : Word)
  | regr (addr : RegAddr)
  | cmd (word : BitVec 40)
  deriving DecidableEq, Repr

/-- `BANK` of an address whose bit 15 is clear: `addr[14:12]` (R100). -/
def addrBank (a : RegAddr) : BitVec 3 := a.extractLsb' 12 3

/-- `WORD`: `addr[11:2]` (R100). -/
def addrWord (a : RegAddr) : BitVec 10 := a.extractLsb' 2 10

/-- The register an address of banks 0 to 7 selects (R101). -/
def addrReg (a : RegAddr) : RegName := ⟨addrBank a, addrWord a⟩

/-- The map of R104: the operation a write to `REG[b][i]` runs. -/
def selectWrite (r : RegName) (v : Word) : Instr :=
  if r = regCoreReset then .coreReset v
  else if r = regCoreConfig then .coreConfig v
  else if r = regCoreStatus then .coreStatus v
  else if r = regPolyControl then .polyControl v
  else if r = regPolyVertex then .polyVertex v
  else if r = regPolyNormal then .polyNormal v
  else if r = regPolyColor then .polyColor v
  else if r = regPolyTexcoord then .polyTexcoord v
  else if r = regTexControl then .texControl v
  else if r = regTexAddr then .texAddr v
  else if r = regTexFilter then .texFilter v
  else if r = regTexFormat then .texFormat v
  else if r = regRenderControl then .renderControl v
  else if r = regRenderZbuffer then .renderZbuffer v
  else if r = regRenderBlend then .renderBlend v
  else if r.bank = bankPci then .pciStore r.word v
  else if r = regVideoFbaddr then .videoFbaddr v
  else if r = regVideoStride then .videoStride v
  else if r = regDmaControl then .dmaControl v
  else if r = regDmaSrc then .dmaSrc v
  else if r = regDmaDest then .dmaDest v
  else if r = regDmaCount then .dmaCount v
  else if r = regIntClear then .intClear v
  else if r = regIntStatus then .intStatus v
  else if r = regIntMask then .intMask v
  else if r.bank = bankInt then .intStore r.word v
  else .regStore r.bank r.word v

/-- A host write, decoded in R101's order: alignment, bank, then the map of R104. -/
def decodeWrite (a : RegAddr) (v : Word) : Instr :=
  if addrAlign a ≠ 0#2 then .regUnalignedWr a v
  else if addrBankHigh a then .regUnknownWr a v
  else selectWrite (addrReg a) v

/-- A host read, decoded in the same order (R101, R105). -/
def decodeRead (a : RegAddr) : Instr :=
  if addrAlign a ≠ 0#2 then .regUnalignedRd a
  else if addrBankHigh a then .regUnknownRd a
  else if addrReg a = regCoreStatus then .coreStatusRd
  else .regLoad (addrBank a) (addrWord a)

/-- A texture command, sub-typed by its top byte (R103, R108). -/
def decodeTexture (d : Word) : Instr :=
  let sub := d.extractLsb' 24 8
  let arg := d.extractLsb' 0 24
  if sub = texSubAddr then .cmdTexAddr arg
  else if sub = texSubUv then .cmdTexUv (d.extractLsb' 12 12) (d.extractLsb' 0 12)
  else if sub = texSubFormat then .cmdTexFormat arg
  else .cmdTexUnknown sub arg

/-- A command id with its payload (R103, R107 to R110). -/
def decodeCmd (c : CmdId) (d : Word) : Instr :=
  if c = cmdIdVertex then .cmdVertex (d.extractLsb' 22 10) (d.extractLsb' 12 10) (d.extractLsb' 0 12)
  else if c = cmdIdTexture then decodeTexture d
  else if c = cmdIdColor then
    .cmdColor (d.extractLsb' 24 8) (d.extractLsb' 16 8) (d.extractLsb' 8 8) (d.extractLsb' 0 8)
  else if c = cmdIdRenderStart then .cmdRenderStart d
  else .cmdUnknown c d

/-- `cmd` = bits 39:32 of a command word (R102). -/
def cmdWordId (w : BitVec 40) : CmdId := w.extractLsb' 32 8

/-- `data` = bits 31:0 of a command word (R102). -/
def cmdWordData (w : BitVec 40) : Word := w.extractLsb' 0 32

/-- The command word `cmd ‖ data` (R102). -/
def cmdWord (c : CmdId) (d : Word) : BitVec 40 := (c ++ d : BitVec (8 + 32))

/-- The decoder. Total: the illegal accesses and unknown commands of R112 are rows of the table, rejected
by their own names. -/
def decode : Access → Instr
  | .regw a v => decodeWrite a v
  | .regr a => decodeRead a
  | .cmd w => decodeCmd (cmdWordId w) (cmdWordData w)

/-- The payload of CMD.VERTEX (R107). -/
def vertexPayload (x y : BitVec 10) (z : BitVec 12) : Word := (x ++ y ++ z : BitVec (10 + 10 + 12))

/-- The payload of a texture command with a 24-bit operand (R108). -/
def texPayload (sub : BitVec 8) (arg : BitVec 24) : Word := (sub ++ arg : BitVec (8 + 24))

/-- The payload of CMD.TEX.UV (R108). -/
def uvPayload (u v : BitVec 12) : Word := (texSubUv ++ u ++ v : BitVec (8 + 12 + 12))

/-- The payload of CMD.COLOR (R109). -/
def colorPayload (r g b a : BitVec 8) : Word := (r ++ g ++ b ++ a : BitVec (8 + 8 + 8 + 8))

/-- The encoder, written from the formats and maps of 30_encoding.md. Address bits 19:16 of an access to a
register are written as 0 (the decode ignores them, R71). -/
def encode : Instr → Access
  | .coreReset v => .regw regCoreReset.addr v
  | .coreConfig v => .regw regCoreConfig.addr v
  | .coreStatus v => .regw regCoreStatus.addr v
  | .polyControl v => .regw regPolyControl.addr v
  | .polyVertex v => .regw regPolyVertex.addr v
  | .polyNormal v => .regw regPolyNormal.addr v
  | .polyColor v => .regw regPolyColor.addr v
  | .polyTexcoord v => .regw regPolyTexcoord.addr v
  | .texControl v => .regw regTexControl.addr v
  | .texAddr v => .regw regTexAddr.addr v
  | .texFormat v => .regw regTexFormat.addr v
  | .texFilter v => .regw regTexFilter.addr v
  | .renderControl v => .regw regRenderControl.addr v
  | .renderZbuffer v => .regw regRenderZbuffer.addr v
  | .renderBlend v => .regw regRenderBlend.addr v
  | .pciStore w v => .regw (RegName.mk bankPci w).addr v
  | .videoFbaddr v => .regw regVideoFbaddr.addr v
  | .videoStride v => .regw regVideoStride.addr v
  | .dmaControl v => .regw regDmaControl.addr v
  | .dmaSrc v => .regw regDmaSrc.addr v
  | .dmaDest v => .regw regDmaDest.addr v
  | .dmaCount v => .regw regDmaCount.addr v
  | .intClear v => .regw regIntClear.addr v
  | .intStatus v => .regw regIntStatus.addr v
  | .intMask v => .regw regIntMask.addr v
  | .intStore w v => .regw (RegName.mk bankInt w).addr v
  | .regStore b w v => .regw (RegName.mk b w).addr v
  | .regUnalignedWr a v => .regw a v
  | .regUnknownWr a v => .regw a v
  | .coreStatusRd => .regr regCoreStatus.addr
  | .regLoad b w => .regr (RegName.mk b w).addr
  | .regUnalignedRd a => .regr a
  | .regUnknownRd a => .regr a
  | .cmdVertex x y z => .cmd (cmdWord cmdIdVertex (vertexPayload x y z))
  | .cmdTexAddr arg => .cmd (cmdWord cmdIdTexture (texPayload texSubAddr arg))
  | .cmdTexUv u v => .cmd (cmdWord cmdIdTexture (uvPayload u v))
  | .cmdTexFormat arg => .cmd (cmdWord cmdIdTexture (texPayload texSubFormat arg))
  | .cmdTexUnknown sub arg => .cmd (cmdWord cmdIdTexture (texPayload sub arg))
  | .cmdColor r g b a => .cmd (cmdWord cmdIdColor (colorPayload r g b a))
  | .cmdRenderStart d => .cmd (cmdWord cmdIdRenderStart d)
  | .cmdUnknown c d => .cmd (cmdWord c d)

/-- How the bits of a row of the opcode table stand for an access (notes/assumptions/18.md). A row of 40
bits is a command word (R102). A row of at most 24 bits is the 20-bit address of a register access; the
table's REGW and REGR rows have the same address bits, so the port is not in the word: it is read as a
write, and the value, which has no bits in the table, is 0. Any other length is no encoding (R113). -/
def accessOfTableWord (nbits w : Nat) : Option Access :=
  if nbits = 40 then some (.cmd (BitVec.ofNat 40 w))
  else if nbits ≤ 24 then some (.regw (BitVec.ofNat 20 w) 0#32)
  else none

/-- The instruction the decoder reads from a word of the opcode table. -/
def decodeTableWord (nbits w : Nat) : Option Instr := (accessOfTableWord nbits w).map decode

end Sys2Proof
end

