-- ==== Sys2Proof/Machine/Arith.lean ====
section
/-! DEFINITION. The arithmetic of the pipeline under `NUMERICS` (spec/00_scope.md R7, R9;
spec/44_rasterizer.md R256): each operation exact, then rounded as the arithmetic rounds. Comparisons,
`floor`, `ceil`, `min`, `max` and the absolute value are exact. -/

namespace Sys2Proof.Machine

/-- What an arithmetic makes of the exact result of an operation. -/
def numRound (n : Numerics) (q : Rat) : Rat :=
  match n with
  | .exact => q
  | .rounded arithmetic => Config.freeRound arithmetic q

/-- `a + b`. -/
def numAdd (n : Numerics) (a b : Rat) : Rat := numRound n (a + b)

/-- `a - b`. -/
def numSub (n : Numerics) (a b : Rat) : Rat := numRound n (a - b)

/-- `a * b`. -/
def numMul (n : Numerics) (a b : Rat) : Rat := numRound n (a * b)

/-- `a / b`. -/
def numDiv (n : Numerics) (a b : Rat) : Rat := numRound n (a / b)

/-- An integer as an unsigned field of `width` bits (R266, R269): itself where it fits. Where it does not, as an
arithmetic other than exact can make it in a run, the spec states no result (U1) and the field takes a free
value. DESIGN CHOICE: notes/assumptions/20.md. -/
def narrow (n : Numerics) (width : Nat) (z : Int) : BitVec width :=
  if 0 ≤ z ∧ z < 2 ^ width then BitVec.ofInt width z else Config.freeNarrow n width z

end Sys2Proof.Machine
end

