-- ==== Sys2Proof/Machine/Operands.lean ====
section
/-! DEFINITION. The operands of the commands: how the raw fields of a payload become coordinates, depths,
texture coordinates and colours (spec/30_encoding.md R107 to R109). Every field is unsigned. -/

namespace Sys2Proof.Machine

/-- An unsigned field over a divisor (R9, R106). -/
def fieldOver {k : Nat} (n : Numerics) (raw : BitVec k) (divisor : Nat) : Rat :=
  numDiv n (raw.toNat : Rat) (divisor : Rat)

/-- x = `XRAW` * `width` / 1024, y likewise with `height` (R107, D19). -/
def coordOf (n : Numerics) (raw : BitVec 10) (extent : Nat) : Rat :=
  numDiv n (numMul n (raw.toNat : Rat) (extent : Rat)) 1024

/-- z = `ZRAW` / 4096 (R107). -/
def depthOf (n : Numerics) (raw : BitVec 12) : Rat := fieldOver n raw 4096

/-- u = `URAW` / 4096, v likewise (R108). -/
def texCoordOf (n : Numerics) (raw : BitVec 12) : Rat := fieldOver n raw 4096

/-- A colour component k / 255 (R109, D26). -/
def componentOf (n : Numerics) (raw : BitVec 8) : Rat := fieldOver n raw 255

/-- The colour of a CMD.COLOR payload (R109, R216). -/
def colorOf (n : Numerics) (r g b a : BitVec 8) : Rgba :=
  ⟨componentOf n r, componentOf n g, componentOf n b, componentOf n a⟩

/-- A 24-bit operand, zero-extended (R108). -/
def argWord (arg : BitVec 24) : Word := arg.zeroExtend 32

/-- A slot with a position put into it; its colour and texture coordinates stay (R211). -/
def placeVertex (n : Numerics) (x y : BitVec 10) (z : BitVec 12) (width height : Nat) (v : Slot) : Slot :=
  { v with x := coordOf n x width, y := coordOf n y height, z := depthOf n z, zraw := z, w := 1 }

/-- The open vertex slot `V[vcount]` (R220). -/
def openSlot (s : State) : Slot := slotAt s.slots s.vcount

/-- The open vertex slot changed (R220). -/
def updateOpenSlot (f : Slot → Slot) (s : State) : State :=
  { s with slots := putSlotAt s.slots s.vcount (f (openSlot s)) }

end Sys2Proof.Machine
end

