-- ==== Sys2Proof/Machine/Binner.lean ====
section
/-! DEFINITION. Polygon finalize and the tile binner (spec/43_tile_binner.md). -/

namespace Sys2Proof.Machine

/-- The least of three. -/
def min3 (a b c : Rat) : Rat := min (min a b) c

/-- The greatest of three. -/
def max3 (a b c : Rat) : Rat := max (max a b) c

/-- k / 4096 rounded to an integer (R241). -/
def roundOver4096 (mode : RoundingMode) (k : Nat) : Nat :=
  match mode with
  | .halfUp => (k + 2048) / 4096
  | .halfDown => (k + 2047) / 4096
  | .halfEven => if k % 4096 = 2048 then k / 4096 + k / 4096 % 2 else (k + 2048) / 4096
  | .down => k / 4096

/-- `zkey(n0, n1, n2)`: (n0 + n1 + n2) * 1365 / 4096, rounded as `ZKEY_ROUNDING` says, by default to
floor(((n0 + n1 + n2) * 1365 + 2048) / 4096) (R241). The product is exact in every arithmetic that R241
speaks of. -/
def zkey (mode : RoundingMode) (n0 n1 n2 : BitVec 12) : Nat :=
  roundOver4096 mode ((n0.toNat + n1.toNat + n2.toNat) * zkeyScale)

/-- `clamp(floor(q) div ts, 0, tiles - 1)`, for a grid of at least one tile (R243). -/
def tileIndex (q : Rat) (ts tiles : Nat) : Nat :=
  (max 0 (min ((tiles : Int) - 1) (q.floor / (ts : Int)))).toNat

/-- The naturals from lo to hi, both included; none if lo is above hi. -/
def natSpan (lo hi : Nat) : List Nat := (List.range (hi + 1 - lo)).map (fun k => lo + k)

/-- The tiles of a polygon's clamped rectangle, row by row: `ty * tiles_x + tx` (R242 to R244). -/
def binTiles (ts tilesX tilesY : Nat) (v : Slots) : List Nat :=
  if tilesX = 0 ∨ tilesY = 0 then []
  else
    let tx0 := tileIndex (min3 v.v0.x v.v1.x v.v2.x) ts tilesX
    let tx1 := tileIndex (max3 v.v0.x v.v1.x v.v2.x) ts tilesX
    let ty0 := tileIndex (min3 v.v0.y v.v1.y v.v2.y) ts tilesY
    let ty1 := tileIndex (max3 v.v0.y v.v1.y v.v2.y) ts tilesY
    (natSpan ty0 ty1).flatMap fun ty => (natSpan tx0 tx1).map fun tx => ty * tilesX + tx

/-- `append p to tile[t].list` for each t of a list (R244). -/
def appendToTiles (p : Nat) : List Nat → List Tile → List Tile
  | [], tiles => tiles
  | t :: ts, tiles => appendToTiles p ts (tiles.modify t (fun tile => { tile with list := tile.list ++ [p] }))

/-- The polygon that the three slots make now: full copies, the current texture address and flags, the
z-sort key (R240). -/
def assembledPolygon (s : State) : Polygon where
  v := s.slots
  texAddr := s.texAddr
  flags := s.curFlags
  zkey := zkey s.cfg.zkeyRounding s.slots.v0.zraw s.slots.v1.zraw s.slots.v2.zraw
  numVertices := 3

/-- `finalize_polygon()` (R240): the polygon stored and binned, or dropped and logged when the buffer is
full (R246). -/
def finalizePolygon (s : State) : State :=
  if s.polyCount = s.cfg.maxPolygons then diag .polyOverflow s
  else
    { s with
      polys := s.polys ++ [assembledPolygon s]
      tiles := appendToTiles s.polyCount (binTiles s.tileSize s.tilesX s.tilesY s.slots) s.tiles }

end Sys2Proof.Machine
end

