-- ==== Sys2Proof/Machine/Raster.lean ====
section
/-! DEFINITION. `render_scene`: the walk over tiles, the depth sort, cull, coverage, depth, shading and the
framebuffer write (spec/44_rasterizer.md). Every operation is that of the arithmetic
`NUMERICS`, exact rationals by default (R256). A render changes ZBUF and the
memory that holds FB only, so its loops run over those two, a `Canvas`. -/

namespace Sys2Proof.Machine

/-- What a render writes as it goes: ZBUF and the memory that holds FB. -/
structure Canvas where
  zbuf : Cells 16
  mem : Memory
  deriving DecidableEq, Repr

/-- What a render reads and no part of it changes: the display, where FB lies in its memory, how many of its
bytes exist, and the parameters. -/
structure View where
  width : Nat
  height : Nat
  stride : Nat
  bpp : Nat
  base : Nat
  limit : Nat
  cfg : Params
  deriving DecidableEq, Repr

/-- The view of a state. -/
def viewOf (s : State) : View where
  width := s.width
  height := s.height
  stride := s.stride
  bpp := s.bpp
  base := s.fb.base
  limit := fbLimit s
  cfg := s.cfg

/-- The arithmetic of a view (R256). -/
def View.num (view : View) : Numerics := view.cfg.numerics

/-- A named flag of a polygon (R36). -/
def polyFlag (view : View) (p : Polygon) (i : Nat) : Bool := namedBit view.cfg regPolyControl p.flags i

-- the depth sort

/-- A reference put before the first one whose key is not above its own. -/
def insertDesc (key : Nat → Nat) (p : Nat) : List Nat → List Nat
  | [] => [p]
  | q :: qs => if key q ≤ key p then p :: q :: qs else q :: insertDesc key p qs

/-- `sort_descending_stable`: keys from largest to smallest, equal keys in list order (R257). -/
def sortDescending (key : Nat → Nat) : List Nat → List Nat
  | [] => []
  | p :: ps => insertDesc key p (sortDescending key ps)

/-- `poly[p].zkey`. -/
def polyKey (polys : List Polygon) (p : Nat) : Nat := (polys[p]?.map (·.zkey)).getD 0

-- one polygon: geometry

/-- The cull area (x1 - x0)(y2 - y0) - (y1 - y0)(x2 - x0) (R259). -/
def cullArea (n : Numerics) (v : Slots) : Rat :=
  numSub n (numMul n (numSub n v.v1.x v.v0.x) (numSub n v.v2.y v.v0.y))
    (numMul n (numSub n v.v1.y v.v0.y) (numSub n v.v2.x v.v0.x))

/-- `culled(P)` (R259). -/
def culled (view : View) (p : Polygon) : Bool :=
  (polyFlag view p bitCullCcw && decide (cullArea view.num p.v < 0)) ||
  (polyFlag view p bitCullCw && decide (0 < cullArea view.num p.v))

/-- The raster area (x2 - x0)(y1 - y0) - (y2 - y0)(x1 - x0) (R262). -/
def rasterArea (n : Numerics) (v : Slots) : Rat :=
  numSub n (numMul n (numSub n v.v2.x v.v0.x) (numSub n v.v1.y v.v0.y))
    (numMul n (numSub n v.v2.y v.v0.y) (numSub n v.v1.x v.v0.x))

/-- A polygon that is skipped as degenerate: |A| below 1/1000000 (R262). -/
def degenerate (view : View) (v : Slots) : Bool := decide (|rasterArea view.num v| < areaEps)

/-- Inclusive pixel bounds. -/
structure Box where
  x0 : Int
  x1 : Int
  y0 : Int
  y1 : Int
  deriving DecidableEq, Repr

/-- `bbox(P)`: floor and ceil of the vertex bounds, clipped to the framebuffer (R260). -/
def bbox (view : View) (v : Slots) : Box where
  x0 := max (min3 v.v0.x v.v1.x v.v2.x).floor 0
  x1 := min (max3 v.v0.x v.v1.x v.v2.x).ceil ((view.width : Int) - 1)
  y0 := max (min3 v.v0.y v.v1.y v.v2.y).floor 0
  y1 := min (max3 v.v0.y v.v1.y v.v2.y).ceil ((view.height : Int) - 1)

/-- The box intersected with a tile's rectangle (R261). -/
def clipToRect (t : Tile) (b : Box) : Box where
  x0 := max b.x0 t.x
  x1 := min b.x1 ((t.x : Int) + t.w - 1)
  y0 := max b.y0 t.y
  y1 := min b.y1 ((t.y : Int) + t.h - 1)

/-- The box a polygon is rasterized over in one tile's turn: clipped to the tile only when `CLIP_TO_TILE`
is true (R258, R261). -/
def drawBox (view : View) (t : Tile) (v : Slots) : Box :=
  if view.cfg.clipToTile then clipToRect t (bbox view v) else bbox view v

/-- The naturals of an inclusive range of integers from a lower bound that is at least 0. -/
def intSpan (lo hi : Int) : List Nat := (List.range (hi + 1 - lo).toNat).map (fun k => lo.toNat + k)

/-- The pixels (px, py) of a box, row by row; none if a bound pair is empty (R258). -/
def boxPixels (b : Box) : List (Nat × Nat) :=
  (intSpan b.y0 b.y1).flatMap fun py => (intSpan b.x0 b.x1).map fun px => (px, py)

/-- E(a, b, p) = (p.x - a.x)(b.y - a.y) - (p.y - a.y)(b.x - a.x) (R264). -/
def edgeFn (n : Numerics) (a b : Slot) (sx sy : Rat) : Rat :=
  numSub n (numMul n (numSub n sx a.x) (numSub n b.y a.y)) (numMul n (numSub n sy a.y) (numSub n b.x a.x))

/-- Barycentric weights (R264). -/
structure Weights where
  w0 : Rat
  w1 : Rat
  w2 : Rat
  deriving DecidableEq, Repr

/-- The weights at the sample point of pixel (px, py), by default its centre (R263, R264). -/
def weightsAt (view : View) (v : Slots) (px py : Nat) : Weights :=
  let n := view.num
  let sx := numAdd n (px : Rat) view.cfg.sampleOffset
  let sy := numAdd n (py : Rat) view.cfg.sampleOffset
  let a := rasterArea n v
  ⟨numDiv n (edgeFn n v.v1 v.v2 sx sy) a, numDiv n (edgeFn n v.v2 v.v0 sx sy) a,
    numDiv n (edgeFn n v.v0 v.v1 sx sy) a⟩

/-- The pixel is covered: no weight is negative (R265). -/
def covered (w : Weights) : Bool := decide (0 ≤ w.w0) && decide (0 ≤ w.w1) && decide (0 ≤ w.w2)

/-- The weighted sum of a component of the three vertices. -/
def blend3 (n : Numerics) (w : Weights) (a b c : Rat) : Rat :=
  numAdd n (numAdd n (numMul n w.w0 a) (numMul n w.w1 b)) (numMul n w.w2 c)

-- depth

/-- z16 = floor(z * 65535) of the interpolated depth (R266). An integer outside 16 bits, which the spec leaves
open, becomes a free value, the depth that is compared as well as stored. DESIGN CHOICE: notes/assumptions/20.md. -/
def depth16 (n : Numerics) (v : Slots) (w : Weights) : Depth :=
  narrow n 16 (numMul n (blend3 n w v.v0.z v.v1.z v.v2.z) 65535).floor

/-- `depth_pass_and_write`: none where the depth test rejects, else ZBUF with the depth written (R266). -/
def depthPassAndWrite (view : View) (p : Polygon) (w : Weights) (px py : Nat) (z : Cells 16) :
    Option (Cells 16) :=
  let k := py * view.width + px
  let z16 := depth16 view.num p.v w
  if polyFlag view p bitZtest && decide (cellsRead depthClear z k < z16) then none
  else some (cellsWrite depthClear z k z16)

-- shading

/-- The interpolated colour, componentwise (R267, R268). -/
def interpolate (n : Numerics) (v : Slots) (w : Weights) : Rgba where
  r := blend3 n w v.v0.color.r v.v1.color.r v.v2.color.r
  g := blend3 n w v.v0.color.g v.v1.color.g v.v2.color.g
  b := blend3 n w v.v0.color.b v.v1.color.b v.v2.color.b
  a := blend3 n w v.v0.color.a v.v1.color.a v.v2.color.a

/-- The componentwise product, alpha included (R267). -/
def modulate (n : Numerics) (c i : Rgba) : Rgba :=
  ⟨numMul n c.r i.r, numMul n c.g i.g, numMul n c.b i.b, numMul n c.a i.a⟩

/-- `shade(P, w)`: textured, textured and Gouraud, Gouraud, or flat (R267). -/
def shade (view : View) (p : Polygon) (w : Weights) : Rgba :=
  if polyFlag view p bitTextured then
    if polyFlag view p bitGouraud then
      modulate view.num view.cfg.texPlaceholder (interpolate view.num p.v w)
    else view.cfg.texPlaceholder
  else if polyFlag view p bitGouraud then interpolate view.num p.v w
  else p.v.v0.color

-- the framebuffer write

/-- q8 = floor(q * 255) (R269). An integer outside 8 bits, which the spec leaves open, becomes a free value.
DESIGN CHOICE: notes/assumptions/20.md. -/
def byteOf (n : Numerics) (q : Rat) : Byte := narrow n 8 (numMul n q 255).floor

/-- The RGB565 word: the top 5, 6 and 5 bits of the components (R272). -/
def rgb565 (n : Numerics) (c : Rgba) : BitVec 16 :=
  ((byteOf n c.r).extractLsb' 3 5 ++ (byteOf n c.g).extractLsb' 2 6 ++ (byteOf n c.b).extractLsb' 3 5 :
    BitVec (5 + 6 + 5))

/-- The packed ARGB word (R274). -/
def argb32 (n : Numerics) (c : Rgba) : Word :=
  (byteOf n c.a ++ byteOf n c.r ++ byteOf n c.g ++ byteOf n c.b : BitVec (8 + 8 + 8 + 8))

/-- The bytes of a pixel, rising addresses: 2, 3 or 4 of them, none at any other depth (R272 to R275). -/
def pixelBytes (n : Numerics) (bpp : Nat) (c : Rgba) : List Byte :=
  if bpp = 16 then leBytes 2 (rgb565 n c)
  else if bpp = 24 then [byteOf n c.b, byteOf n c.g, byteOf n c.r]
  else if bpp = 32 then leBytes 4 (argb32 n c)
  else []

/-- The byte offset of pixel (px, py) in FB: o * (bpp / 8) with o = py * stride + px (R271). -/
def pixelOffset (view : View) (px py : Nat) : Nat := (py * view.stride + px) * (view.bpp / 8)

/-- `write_pixel`: none where a byte lies beyond the bound FB (U5). -/
def writePixel (view : View) (px py : Nat) (c : Rgba) (m : Memory) : Option Memory :=
  let bytes := pixelBytes view.num view.bpp c
  let off := pixelOffset view px py
  if bytes = [] then some m
  else if off + bytes.length ≤ view.limit then some (memWriteBytes m (view.base + off) bytes)
  else none

-- the loops

/-- One pixel of one polygon: coverage, depth, shading, store (R258). -/
def drawPixel (view : View) (p : Polygon) (px py : Nat) (c : Canvas) : Option Canvas :=
  let w := weightsAt view p.v px py
  if covered w then
    match depthPassAndWrite view p w px py c.zbuf with
    | none => some c
    | some z => (writePixel view px py (shade view p w) c.mem).map (fun m => ⟨z, m⟩)
  else some c

/-- The pixels of a polygon in order. -/
def drawPixels (view : View) (p : Polygon) : List (Nat × Nat) → Canvas → Option Canvas
  | [], c => some c
  | q :: qs, c =>
    match drawPixel view p q.1 q.2 c with
    | none => none
    | some c' => drawPixels view p qs c'

/-- `render_polygon(P, t)` (R258). -/
def renderPolygon (view : View) (p : Polygon) (t : Tile) (c : Canvas) : Option Canvas :=
  if culled view p then some c
  else if degenerate view p.v then some c
  else drawPixels view p (boxPixels (drawBox view t p.v)) c

/-- The polygons of one tile in drawing order. A reference to no live polygon draws nothing; there is none
in a state a run reaches (R55). -/
def renderRefs (view : View) (polys : List Polygon) (t : Tile) : List Nat → Canvas → Option Canvas
  | [], c => some c
  | p :: ps, c =>
    match polys[p]? with
    | none => renderRefs view polys t ps c
    | some P =>
      match renderPolygon view P t c with
      | none => none
      | some c' => renderRefs view polys t ps c'

/-- The tiles in row-major order, each one's polygons far to near (R255, R393). -/
def renderTiles (view : View) (polys : List Polygon) : List Tile → Canvas → Option Canvas
  | [], c => some c
  | t :: ts, c =>
    match renderRefs view polys t (sortDescending (polyKey polys) t.list) c with
    | none => none
    | some c' => renderTiles view polys ts c'

/-- A tile with its list emptied. -/
def emptyTile (t : Tile) : Tile := { t with list := [] }

/-- The end of a frame: ZBUF and FB as drawn, `poly_count` 0, every list empty, one `frame_changed` (R255). -/
def finishFrame (c : Canvas) (s : State) : State :=
  emit .frameChanged
    { setFbMemory c.mem s with zbuf := c.zbuf, zfill := .cleared, polys := [], tiles := s.tiles.map emptyTile }

/-- `render_scene()` (R255): ZBUF cleared to 0xFFFF, every tile rendered, the frame finished; refused where
a pixel lies outside the bound FB (U5). -/
def renderScene (s : State) : Result :=
  match renderTiles (viewOf s) s.polys s.tiles ⟨[], fbMemory s⟩ with
  | none => .refused .fbOutsideBinding
  | some c => .next (finishFrame c s)

end Sys2Proof.Machine
end

