-- ==== Sys2Proof/Machine/Commands.lean ====
section
/-! DEFINITION. The meanings of the commands the FIFO drain dispatches (spec/42_assembler_commands.md). -/

namespace Sys2Proof.Machine

/-- CMD.VERTEX (R211): the position goes into the open slot; the third one finalizes the polygon and
resets the count, whether or not the polygon was stored. -/
def execCmdVertex (xraw yraw : BitVec 10) (zraw : BitVec 12) (s : State) : Result :=
  let s1 := updateOpenSlot (placeVertex s.cfg.numerics xraw yraw zraw s.width s.height) s
  if s.vcount = 2 then .next { finalizePolygon s1 with vcount := 0 }
  else .next { s1 with vcount := s.vcount + 1 }

/-- CMD.TEX.ADDR (R213): the pipeline's texture address, zero-extended; REG.TEX.ADDR is not changed. -/
def execCmdTexAddr (arg : BitVec 24) (s : State) : Result := .next { s with texAddr := argWord arg }

/-- CMD.TEX.UV (R214). -/
def execCmdTexUv (uraw vraw : BitVec 12) (s : State) : Result :=
  .next (updateOpenSlot (fun v => { v with u := texCoordOf s.cfg.numerics uraw, v := texCoordOf s.cfg.numerics vraw }) s)

/-- CMD.TEX.FORMAT (R215): sets the bits and decodes nothing. -/
def execCmdTexFormat (arg : BitVec 24) (s : State) : Result := .next { s with texFormatBits := argWord arg }

/-- CMD.TEX.UNKNOWN (R217): logged, ignored. -/
def execCmdTexUnknown (subtype : BitVec 8) (arg : BitVec 24) (s : State) : Result :=
  .next (diag (.unknownCmd cmdIdTexture (texPayload subtype arg)) s)

/-- CMD.COLOR (R216). -/
def execCmdColor (r8 g8 b8 a8 : BitVec 8) (s : State) : Result :=
  .next (updateOpenSlot (fun v => { v with color := colorOf s.cfg.numerics r8 g8 b8 a8 }) s)

/-- CMD.RENDER_START (R218): the scene, then the busy flags, then the timer; the payload is ignored. -/
def execCmdRenderStart (_data : Word) (s : State) : Result :=
  andThen (renderScene s) fun s1 => .next (armTimer (raiseRenderBusy s1))

/-- CMD.UNKNOWN (R219): logged, ignored. -/
def execCmdUnknown (cmd : CmdId) (data : Word) (s : State) : Result :=
  .next (diag (.unknownCmd cmd data) s)

end Sys2Proof.Machine
end

