-- ==== Sys2Proof/Machine/Queue.lean ====
section
/-! DEFINITION. The command FIFO: push, the drain gate, the bounded drain, dispatch
(spec/41_command_fifo.md, spec/42_assembler_commands.md R210). -/

namespace Sys2Proof.Machine

/-- `dispatch(c, d)`: by command id, then for a texture command by the top byte of the payload (R210). -/
def dispatch (c : CmdId) (d : Word) (s : State) : Result :=
  if c = cmdIdVertex then
    execCmdVertex (d.extractLsb' 22 10) (d.extractLsb' 12 10) (d.extractLsb' 0 12) s
  else if c = cmdIdTexture then
    if d.extractLsb' 24 8 = texSubAddr then execCmdTexAddr (d.extractLsb' 0 24) s
    else if d.extractLsb' 24 8 = texSubUv then execCmdTexUv (d.extractLsb' 12 12) (d.extractLsb' 0 12) s
    else if d.extractLsb' 24 8 = texSubFormat then execCmdTexFormat (d.extractLsb' 0 24) s
    else execCmdTexUnknown (d.extractLsb' 24 8) (d.extractLsb' 0 24) s
  else if c = cmdIdColor then
    execCmdColor (d.extractLsb' 24 8) (d.extractLsb' 16 8) (d.extractLsb' 8 8) (d.extractLsb' 0 8) s
  else if c = cmdIdRenderStart then execCmdRenderStart d s
  else execCmdUnknown c d s

/-- `fifo.entry[fifo.rd]`. -/
def fifoHead (f : Fifo) : FifoEntry := f.entry.getD f.rd ⟨0#8, 0#32⟩

/-- One command consumed: the read cursor and the counter move (R193). -/
def fifoPop (capacity : Nat) (f : Fifo) : Fifo :=
  { f with rd := (f.rd + 1) % capacity, count := f.count - 1 }

/-- An entry stored at the write cursor (R190). -/
def fifoPut (capacity : Nat) (e : FifoEntry) (f : Fifo) : Fifo :=
  { f with entry := f.entry.set f.wr e, wr := (f.wr + 1) % capacity, count := f.count + 1 }

/-- What the drain does after a dispatch: the entry leaves, FIFO_FULL clears, FIFO_EMPTY is set when none is
left (R193). -/
def retireHead (s : State) : State :=
  let f := fifoPop s.cfg.fifoCapacity s.fifo
  let s1 := setStatus bitFifoFull false { s with fifo := f }
  if f.count = 0 then setStatus bitFifoEmpty true s1 else s1

/-- The drain loop: it ends when the FIFO is empty or after n commands, and at no other point (R193). -/
def drainLoop : Nat → State → Result
  | 0, s => .next s
  | n + 1, s =>
    if s.fifo.count = 0 then .next s
    else
      andThen (dispatch (fifoHead s.fifo).cmd (fifoHead s.fifo).data s) fun s1 => drainLoop n (retireHead s1)

/-- `drain()`: at most `DRAIN_BATCH` commands (R193). -/
def drain (s : State) : Result := drainLoop drainBatch s

/-- An accepted push, before the drain: the entry stored, FIFO_EMPTY cleared, FIFO_FULL set when the
capacity is reached (R190, R191). -/
def acceptPush (c : CmdId) (d : Word) (s : State) : State :=
  let f := fifoPut s.cfg.fifoCapacity ⟨c, d⟩ s.fifo
  let s1 := setStatus bitFifoEmpty false { s with fifo := f }
  if f.count = s.cfg.fifoCapacity then setStatus bitFifoFull true s1 else s1

/-- `push(c, d)` (R190): dropped and logged when the FIFO is full, else accepted and, with the gate open,
drained (R192). -/
def push (c : CmdId) (d : Word) (s : State) : Result :=
  if s.fifo.count = s.cfg.fifoCapacity then .next (setStatus bitFifoFull true (diag (.fifoFull c d) s))
  else if drainGateOpen (acceptPush c d s) then drain (acceptPush c d s)
  else .next (acceptPush c d s)

end Sys2Proof.Machine
end

