-- ==== Sys2Proof/Machine/PolyTexBanks.lean ====
section
/-! DEFINITION. The meanings of the writes to banks poly and tex (spec/40_register_frontend.md sections 4
and 5). -/

namespace Sys2Proof.Machine

/-- Store and forward: the register keeps the value, whether or not the push is accepted (R111, R142). -/
def storeAndForward (r : RegName) (id : CmdId) (value : Word) (s : State) : Result :=
  push id value (setReg r value s)

/-- POLY.CONTROL (R141). -/
def execPolyControl (value : Word) (s : State) : Result :=
  .next { setReg regPolyControl value s with curFlags := value }

/-- POLY.VERTEX (R142). -/
def execPolyVertex (value : Word) (s : State) : Result :=
  storeAndForward regPolyVertex s.cfg.fwdIdVertex value s

/-- POLY.NORMAL (R143): with the literal ids it is executed as CMD.COLOR (C1). -/
def execPolyNormal (value : Word) (s : State) : Result :=
  storeAndForward regPolyNormal s.cfg.fwdIdNormal value s

/-- POLY.COLOR (R144): with the literal ids it is executed as CMD.UNKNOWN (C1). -/
def execPolyColor (value : Word) (s : State) : Result :=
  storeAndForward regPolyColor s.cfg.fwdIdColor value s

/-- POLY.TEXCOORD (R145). -/
def execPolyTexcoord (value : Word) (s : State) : Result :=
  storeAndForward regPolyTexcoord s.cfg.fwdIdTexcoord value s

/-- TEX.CONTROL (R146). -/
def execTexControl (value : Word) (s : State) : Result :=
  .next { setReg regTexControl value s with texControl := value }

/-- TEX.ADDR (R147): all 32 bits, at once. -/
def execTexAddr (value : Word) (s : State) : Result :=
  .next { setReg regTexAddr value s with texAddr := value }

/-- TEX.FILTER (R148). -/
def execTexFilter (value : Word) (s : State) : Result :=
  .next { setReg regTexFilter value s with texFilter := value }

/-- TEX.FORMAT (R149): stored, mirrored, decoded into the descriptor. -/
def execTexFormat (value : Word) (s : State) : Result :=
  .next { setReg regTexFormat value s with texFormatBits := value, texDesc := decodeTexFormat s.cfg value }

end Sys2Proof.Machine
end

