-- ==== Sys2Proof/Machine/Reads.lean ====
section
/-! DEFINITION. The meanings of the host reads (spec/40_register_frontend.md section 8). -/

namespace Sys2Proof.Machine

/-- CORE.STATUS.RD (R157): VBLANK sampled into the stored word, then the word returned. -/
def execCoreStatusRd (s : State) : Result :=
  let s1 := setStatus bitVblank s.crtVblank s
  .next (returnData (getReg s1 regCoreStatus) s1)

/-- REG.LOAD (R156). -/
def execRegLoad (bank : BitVec 3) (word : BitVec 10) (s : State) : Result :=
  .next (returnData (getReg s ⟨bank, word⟩) s)

/-- REG.UNALIGNED.RD (R156): logged, the sentinel returned. -/
def execRegUnalignedRd (addr : RegAddr) (s : State) : Result :=
  .next (returnData s.cfg.readSentinel (diag (.unaligned addr none) s))

/-- REG.UNKNOWN.RD (R156): logged, the sentinel returned. -/
def execRegUnknownRd (addr : RegAddr) (s : State) : Result :=
  .next (returnData s.cfg.readSentinel (diag (.unknownReg addr false) s))

end Sys2Proof.Machine
end

