-- ==== Sys2Proof/Machine/RenderVideoBanks.lean ====
section
/-! DEFINITION. The meanings of the writes to banks render and video (spec/40_register_frontend.md sections
6 and 7). -/

namespace Sys2Proof.Machine

/-- `render_start_request(value)`: RENDER_BUSY raised whether or not the push is accepted (R151). -/
def renderStartRequest (value : Word) (s : State) : Result :=
  push cmdIdRenderStart value (setStatus bitRenderBusy true s)

/-- `render_bank_reset()` (R152). -/
def renderBankReset (s : State) : State := clearRenderBusy (clearBank bankRender s)

/-- RENDER.CONTROL (R150): stored and mirrored; START first, then RESET, each on its own bit. -/
def execRenderControl (value : Word) (s : State) : Result :=
  let s1 : State := { setReg regRenderControl value s with renderControl := value }
  andThen (if namedBit s.cfg regRenderControl value bitStart then renderStartRequest value s1 else .next s1) fun s2 =>
    .next (if namedBit s.cfg regRenderControl value bitReset then renderBankReset s2 else s2)

/-- RENDER.ZBUFFER (R153). -/
def execRenderZbuffer (value : Word) (s : State) : Result :=
  .next { setReg regRenderZbuffer value s with renderZbuffer := value }

/-- RENDER.BLEND (R153). -/
def execRenderBlend (value : Word) (s : State) : Result :=
  .next { setReg regRenderBlend value s with renderBlend := value }

/-- VIDEO.STRIDE (R154): the pipeline's stride, in pixels, unchecked. -/
def execVideoStride (value : Word) (s : State) : Result :=
  .next { setReg regVideoStride value s with stride := value.toNat }

/-- VIDEO.FBADDR (R155): the output `display_start`; FB is not rebound. -/
def execVideoFbaddr (value : Word) (s : State) : Result :=
  .next (emit (.displayStart value) { setReg regVideoFbaddr value s with displayStart := value })

end Sys2Proof.Machine
end

