-- ==== Sys2Proof/Machine/Dispatch.lean ====
section
/-! DEFINITION. One arm per instruction. -/

namespace Sys2Proof.Machine

def exec (i : Instr) (s : State) : Host.Outcome State Fault Refusal :=
  match i with
  | .coreReset value => Sys2Proof.Machine.execCoreReset value s
  | .coreConfig value => Sys2Proof.Machine.execCoreConfig value s
  | .coreStatus value => Sys2Proof.Machine.execCoreStatus value s
  | .polyControl value => Sys2Proof.Machine.execPolyControl value s
  | .polyVertex value => Sys2Proof.Machine.execPolyVertex value s
  | .polyNormal value => Sys2Proof.Machine.execPolyNormal value s
  | .polyColor value => Sys2Proof.Machine.execPolyColor value s
  | .polyTexcoord value => Sys2Proof.Machine.execPolyTexcoord value s
  | .texControl value => Sys2Proof.Machine.execTexControl value s
  | .texAddr value => Sys2Proof.Machine.execTexAddr value s
  | .texFormat value => Sys2Proof.Machine.execTexFormat value s
  | .texFilter value => Sys2Proof.Machine.execTexFilter value s
  | .renderControl value => Sys2Proof.Machine.execRenderControl value s
  | .renderZbuffer value => Sys2Proof.Machine.execRenderZbuffer value s
  | .renderBlend value => Sys2Proof.Machine.execRenderBlend value s
  | .pciStore word value => Sys2Proof.Machine.execPciStore word value s
  | .videoFbaddr value => Sys2Proof.Machine.execVideoFbaddr value s
  | .videoStride value => Sys2Proof.Machine.execVideoStride value s
  | .dmaControl value => Sys2Proof.Machine.execDmaControl value s
  | .dmaSrc value => Sys2Proof.Machine.execDmaSrc value s
  | .dmaDest value => Sys2Proof.Machine.execDmaDest value s
  | .dmaCount value => Sys2Proof.Machine.execDmaCount value s
  | .intClear value => Sys2Proof.Machine.execIntClear value s
  | .intStatus value => Sys2Proof.Machine.execIntStatus value s
  | .intMask value => Sys2Proof.Machine.execIntMask value s
  | .intStore word value => Sys2Proof.Machine.execIntStore word value s
  | .regStore bank word value => Sys2Proof.Machine.execRegStore bank word value s
  | .regUnalignedWr addr value => Sys2Proof.Machine.execRegUnalignedWr addr value s
  | .regUnknownWr addr value => Sys2Proof.Machine.execRegUnknownWr addr value s
  | .coreStatusRd => Sys2Proof.Machine.execCoreStatusRd s
  | .regLoad bank word => Sys2Proof.Machine.execRegLoad bank word s
  | .regUnalignedRd addr => Sys2Proof.Machine.execRegUnalignedRd addr s
  | .regUnknownRd addr => Sys2Proof.Machine.execRegUnknownRd addr s
  | .cmdVertex xraw yraw zraw => Sys2Proof.Machine.execCmdVertex xraw yraw zraw s
  | .cmdTexAddr arg => Sys2Proof.Machine.execCmdTexAddr arg s
  | .cmdTexUv uraw vraw => Sys2Proof.Machine.execCmdTexUv uraw vraw s
  | .cmdTexFormat arg => Sys2Proof.Machine.execCmdTexFormat arg s
  | .cmdTexUnknown subtype arg => Sys2Proof.Machine.execCmdTexUnknown subtype arg s
  | .cmdColor r8 g8 b8 a8 => Sys2Proof.Machine.execCmdColor r8 g8 b8 a8 s
  | .cmdRenderStart data => Sys2Proof.Machine.execCmdRenderStart data s
  | .cmdUnknown cmd data => Sys2Proof.Machine.execCmdUnknown cmd data s

end Sys2Proof.Machine
end

