-- ==== Sys2Proof/Machine/Events.lean ====
section
/-! DEFINITION. The steps that are not register accesses, and which step the host's next event is
(spec/46_timer_display.md, spec/10_state.md R20). -/

namespace Sys2Proof.Machine

/-- `timer_fire` (R316): enabled only while the timer is armed (U12); it disarms, writes the flags and
drains. -/
def timerFire (s : State) : Result :=
  if s.timerArmed then drain (fireFlags { s with timerArmed := false })
  else .refused .timerNotArmed

/-- The display bound: geometry and FB (R320, R324). -/
def bindDisplay (w h stride bpp : Nat) (fb : FbRef) (s : State) : State :=
  { s with width := w, height := h, stride := stride, bpp := bpp, fb := fb }

/-- `update_display(w, h, s, b, ref)` (R320): the display rebound, the grid and ZBUF rebuilt, and nothing
else. -/
def updateDisplay (w h stride bpp : Nat) (fb : FbRef) (s : State) : State :=
  buildGrid w h (bindDisplay w h stride bpp fb s)

/-- `init(display_params)` (R324): the display bound, the timer disarmed, then everything a full reset
does. -/
def initBlock (w h stride bpp : Nat) (fb : FbRef) (s : State) : State :=
  fullReset { bindDisplay w h stride bpp fb s with timerArmed := false, closed := false }

/-- The host's next event taken from the inbox. -/
def takeEvent (s : State) : Option (HostEvent × State) :=
  match s.inbox with
  | [] => none
  | e :: rest => some (e, { s with inbox := rest })

/-- The step an event of a living block is (R20, R130, R156, R316, R320, R324, R325). The address of an access
is that of the register the tables `BANK_ID` and `OFF_*` put there (R7). -/
def runEvent (e : HostEvent) (s : State) : Result :=
  match e with
  | .write addr value => exec (decode (.regw (homeAddr s.cfg addr) value)) s
  | .read addr => exec (decode (.regr (homeAddr s.cfg addr))) s
  | .timerFire => timerFire s
  | .updateDisplay w h stride bpp fb => .next (updateDisplay w h stride bpp fb s)
  | .init w h stride bpp fb => .next (initBlock w h stride bpp fb s)
  | .close => .next { s with closed := true }
  | .vblank level => .next { s with crtVblank := level }

/-- Whether an event can reach the block: after `close` only an `init`, which constructs it anew (R324,
R325). -/
def admitted (e : HostEvent) (s : State) : Bool :=
  match e with
  | .init _ _ _ _ _ => true
  | .write _ _ | .read _ | .timerFire | .updateDisplay _ _ _ _ _ | .close | .vblank _ => !s.closed

/-- One event: run, or refused after `close`. -/
def hostStep (e : HostEvent) (s : State) : Result :=
  if admitted e s then runEvent e s else .refused .blockClosed

/-- A register access or a command laid where the next step finds it (notes/assumptions/18.md). An access
becomes the host's next event, at the place its register has. A command word becomes the one entry of the FIFO and the next event a fire of
the armed timer, whose drain dispatches it (R316). -/
def presentAccess (a : Access) (s : State) : State :=
  match a with
  | .regw addr value => { s with closed := false, inbox := .write (placeAddr s.cfg addr) value :: s.inbox }
  | .regr addr => { s with closed := false, inbox := .read (placeAddr s.cfg addr) :: s.inbox }
  | .cmd w =>
    { s with
      closed := false
      timerArmed := true
      fifo := ⟨s.fifo.entry.set s.fifo.rd ⟨cmdWordId w, cmdWordData w⟩, s.fifo.rd,
        (s.fifo.rd + 1) % s.cfg.fifoCapacity, 1⟩
      inbox := .timerFire :: s.inbox }

end Sys2Proof.Machine
end

