-- ==== Sys2Proof/Machine/Step.lean ====
section
/-! DEFINITION. One step: the host's next event (spec/10_state.md R20). -/

namespace Sys2Proof.Machine

/-- One step takes the oldest event of the inbox and runs it; with none there is no step. -/
def step (s : State) : Host.Outcome State Fault Refusal :=
  match takeEvent s with
  | none => .refused .noHostEvent
  | some (e, s1) => hostStep e s1

/-- The state with a word of the opcode table stored where the very next step runs it. -/
def State.withFetchWord (s : State) (nbits w : Nat) : State :=
  match accessOfTableWord nbits w with
  | none => s
  | some a => presentAccess a s

end Sys2Proof.Machine
end

