-- ==== Sys2Proof/Safety.lean ====
section
/-! DEFINITION. What counts as a safe run: the invariants of the block, the premises under which no step is
refused, and the terms in which claims say what an operation leaves alone. -/

namespace Sys2Proof.Machine

-- what an operation leaves alone

/-- The operation completes in a next state with a property. -/
def Completes (o : Result) (P : State → Prop) : Prop := ∃ t, o = .next t ∧ P t

/-- Every register but those a set names reads as before. -/
def RegsSameExcept (changed : List RegName) (s t : State) : Prop :=
  ∀ r, r ∉ changed → getReg t r = getReg s r

/-- Every flag of REG.CORE.STATUS but those named reads as before, and so do its reserved bits. -/
def StatusSameExcept (changed : List Nat) (s t : State) : Prop :=
  ∀ i, i ∉ changed → statusBit t i = statusBit s i

/-- Every byte of VRAM, every byte of the host's pixel memory and every sample of ZBUF reads as before. -/
def MemSame (s t : State) : Prop :=
  (∀ a, vramByte t a = vramByte s a) ∧ (∀ a, hostByte t a = hostByte s a) ∧ (∀ k, zSample t k = zSample s k)

/-- A register write completes and stores: the register holds the value, every other register, every flag,
every byte and every sample reads as before, and `upd` says what else of the state changed. -/
def StoresWith (r : RegName) (v : Word) (upd : State → State) (s : State) (o : Result) : Prop :=
  Completes o fun t =>
    getReg t r = v ∧ RegsSameExcept [r] s t ∧ StatusSameExcept [] s t ∧ MemSame s t ∧
      t = upd { s with regs := t.regs }

/-- How many bytes a pixel store writes (R272 to R275). -/
def pixelSize (bpp : Nat) : Nat := if bpp = 16 ∨ bpp = 24 ∨ bpp = 32 then bpp / 8 else 0

/-- Byte `a` of the memory that holds FB is a byte that a store to pixel (px, py) writes (R271). -/
def ByteOfPixel (s : State) (px py a : Nat) : Prop :=
  s.fb.base + pixelOffset (viewOf s) px py ≤ a ∧ a < s.fb.base + pixelOffset (viewOf s) px py + pixelSize s.bpp

/-- Every byte of either memory reads as before, but those that a store to a pixel of the display with `P`
writes, in the memory that holds FB. -/
def BytesSameButPixels (P : Nat → Nat → Prop) (s t : State) : Prop :=
  (∀ a, (s.fb.store = .host → ∀ px py, px < s.width → py < s.height → P px py → ¬ ByteOfPixel s px py a) →
    hostByte t a = hostByte s a) ∧
  (∀ a, (s.fb.store = .vram → ∀ px py, px < s.width → py < s.height → P px py → ¬ ByteOfPixel s px py a) →
    vramByte t a = vramByte s a)

/-- What no drained command changes (R210 to R219), and what it can change: the state apart from the FIFO's
own fields, the assembler, the polygon buffer, the tiles, ZBUF, the timer's flag, FB's bytes and the ports. -/
def DrainFrame (s t : State) : Prop :=
  t = { s with
    regs := t.regs, fifo := t.fifo, slots := t.slots, vcount := t.vcount, texAddr := t.texAddr,
    texFormatBits := t.texFormatBits, polys := t.polys, tiles := t.tiles, zbuf := t.zbuf, zfill := t.zfill,
    timerArmed := t.timerArmed, hostMem := t.hostMem, vram := t.vram, out := t.out }

/-- The flags a drain may write: FIFO_EMPTY, FIFO_FULL, RENDER_BUSY, RENDER_RUNNING (R190, R193, R218). -/
def drainFlags : List Nat := [bitFifoEmpty, bitFifoFull, bitRenderBusy, bitRenderRunning]

/-- A command accepted by the FIFO, before any drain (R190, R191). -/
structure Accepted (c : CmdId) (d : Word) (s t : State) : Prop where
  fifo : t.fifo =
    ⟨s.fifo.entry.set s.fifo.wr ⟨c, d⟩, s.fifo.rd, (s.fifo.wr + 1) % s.cfg.fifoCapacity, s.fifo.count + 1⟩
  empty : statusBit t bitFifoEmpty = false
  full : statusBit t bitFifoFull = (statusBit s bitFifoFull || decide (s.fifo.count + 1 = s.cfg.fifoCapacity))
  status : StatusSameExcept [bitFifoEmpty, bitFifoFull] s t
  regs : RegsSameExcept [regCoreStatus] s t
  mem : MemSame s t
  rest : t = { s with regs := t.regs, fifo := t.fifo }

/-- A command dropped by a full FIFO: logged, FIFO_FULL raised, and nothing else (R190). -/
structure Dropped (c : CmdId) (d : Word) (s t : State) : Prop where
  full : statusBit t bitFifoFull = true
  status : StatusSameExcept [bitFifoFull] s t
  regs : RegsSameExcept [regCoreStatus] s t
  mem : MemSame s t
  rest : t = { s with regs := t.regs, out := .diag (.fifoFull c d) :: s.out }

/-- The registers after a write of DMA.CONTROL with START set (R159 to R161, R300, R304): the bank cleared
when RESET is set too, else the value stored, ACTIVE clear and DONE set. -/
def DmaStarted (v : Word) (s t : State) : Prop :=
  StatusSameExcept [bitDmaBusy] s t ∧
  (namedBit s.cfg regDmaControl v bitReset = true →
    statusBit t bitDmaBusy = false ∧ (∀ w, getReg t ⟨bankDma, w⟩ = 0#32) ∧
      ∀ q, q.bank ≠ bankDma → q ≠ regCoreStatus → getReg t q = getReg s q) ∧
  (namedBit s.cfg regDmaControl v bitReset = false →
    statusBit t bitDmaBusy = true ∧ getReg t regDmaControl = v ∧
      regBit t regDmaStatus bitDmaActive = false ∧ regBit t regDmaStatus bitDmaDone = true ∧
      (∀ i, i ≠ bitDmaActive → i ≠ bitDmaDone → regBit t regDmaStatus i = regBit s regDmaStatus i) ∧
      RegsSameExcept [regDmaControl, regDmaStatus, regCoreStatus] s t)

/-- Commands run one after another, with no FIFO between them. -/
def runCommands : List FifoEntry → State → Result
  | [], s => .next s
  | e :: es, s => andThen (exec (decode (.cmd (cmdWord e.cmd e.data))) s) (runCommands es)

/-- What one polygon makes of the depth of a pixel and of the colour last drawn there (R258, R266, R267). -/
def pixelAfter (view : View) (t : Tile) (p : Polygon) (px py : Nat) (a : Depth × Option Rgba) :
    Depth × Option Rgba :=
  if culled view p = false ∧ degenerate view p.v = false ∧ (px, py) ∈ boxPixels (drawBox view t p.v) ∧
      covered (weightsAt view p.v px py) = true ∧
      ¬(polyFlag view p bitZtest = true ∧ a.1 < depth16 view.num p.v (weightsAt view p.v px py)) then
    (depth16 view.num p.v (weightsAt view p.v px py), some (shade view p (weightsAt view p.v px py)))
  else a

/-- The polygons of a tile in drawing order (R255, R257). -/
def drawOrder (polys : List Polygon) (t : Tile) : List Polygon :=
  (sortDescending (polyKey polys) t.list).filterMap (fun i => polys[i]?)

/-- A pixel of the finished frame: its depth, and the last colour drawn there if any was, from the tiles in
row-major order and each one's polygons far to near (R255, R393). -/
def framePixel (view : View) (polys : List Polygon) (tiles : List Tile) (px py : Nat) : Depth × Option Rgba :=
  tiles.foldl (fun a t => (drawOrder polys t).foldl (fun a p => pixelAfter view t p px py a) a)
    (depthClear, none)

-- when no step is refused

/-- The host's promise about FB, as U5 states it: `(height - 1) * stride + width` pixels lie inside the
bound FB, when there is anything to draw and `bpp` is one of the three depths that write (R72, R275). -/
abbrev FbCovers (s : State) : Prop :=
  s.width = 0 ∨ s.height = 0 ∨ (s.bpp ≠ 16 ∧ s.bpp ≠ 24 ∧ s.bpp ≠ 32) ∨
    ((s.height - 1) * s.stride + s.width) * (s.bpp / 8) ≤ fbLimit s

/-- The premise of a DMA claim (U6), asked of an event that starts a transfer whose validation passes (R302):
the source lies inside VRAM. -/
def DmaSourceInside (e : HostEvent) (s : State) : Prop :=
  ∀ a v, e = .write a v → decode (.regw (homeAddr s.cfg a) v) = .dmaControl v →
    namedBit s.cfg regDmaControl v bitStart = true → dmaValid s = true → dmaSource s + dmaSize s ≤ s.cfg.vramSize

-- the invariants

/-- Every store is in its canonical form, the register file has 8192 words, and a ZBUF that was not cleared
since its allocation lists nothing. -/
structure StoreInv (s : State) : Prop where
  regs : cellsWf regDefault s.regs = true
  regKeys : ∀ c ∈ s.regs, c.1 < 8192
  hostMem : Memory.wf s.hostMem = true
  vram : Memory.wf s.vram = true
  zbuf : cellsWf depthClear s.zbuf = true
  zfresh : ∀ n, s.zfill = .fresh n → s.zbuf = [] ∧ n < s.zallocs

/-- The FIFO of R49 and R55: cursors and counter in range, `wr = (rd + count) mod capacity`, FIFO_EMPTY set
exactly when nothing is queued, FIFO_FULL set only when the FIFO is at its capacity. -/
structure FifoInv (s : State) : Prop where
  capacity : 1 ≤ s.cfg.fifoCapacity
  length : s.fifo.entry.length = s.cfg.fifoCapacity
  rd : s.fifo.rd < s.cfg.fifoCapacity
  count : s.fifo.count ≤ s.cfg.fifoCapacity
  wr : s.fifo.wr = (s.fifo.rd + s.fifo.count) % s.cfg.fifoCapacity
  empty : statusBit s bitFifoEmpty = decide (s.fifo.count = 0)
  full : statusBit s bitFifoFull = true → s.fifo.count = s.cfg.fifoCapacity

/-- The polygon buffer and the tiles of R27, R28 and R55. -/
structure BinInv (s : State) : Prop where
  polyBound : s.polyCount ≤ s.cfg.maxPolygons
  vertices : ∀ p ∈ s.polys, p.numVertices = 3
  keys : ∀ p ∈ s.polys, p.zkey ≤ 4094
  tileCount : s.tiles.length = s.tilesX * s.tilesY
  tileRefs : ∀ t ∈ s.tiles, ∀ p ∈ t.list, p < s.polyCount
  tileSize : s.tileSize ∈ [8, 16, 32, 64]

/-- What the host can never make a register hold: reserved bits of REG.CORE.STATUS stay 0 (R33),
REG.INT.CLEAR reads 0 (R47), REG.CORE.RESET never holds its bit 0 (R35). -/
structure RegisterInv (s : State) : Prop where
  statusReserved : ∀ i, 7 ≤ i → statusBit s i = false
  intClear : getReg s regIntClear = 0#32
  resetBit : regBit s regCoreReset bitResetCore = false

/-- A vertex slot in its ranges (R23): w = 1, z = zraw / 4096 as the arithmetic rounds it or the reset value 0;
in exact arithmetic coordinates not negative, colours and texture coordinates in 0..1. -/
structure SlotOk (n : Numerics) (v : Slot) : Prop where
  w : v.w = 1
  z : v.z = depthOf n v.zraw ∨ v.z = 0 ∧ v.zraw = 0#12
  x : n = .exact → 0 ≤ v.x
  y : n = .exact → 0 ≤ v.y
  color : n = .exact → v.color.inUnit = true
  u : n = .exact → 0 ≤ v.u ∧ v.u < 1
  v : n = .exact → 0 ≤ v.v ∧ v.v < 1

/-- Three slots in their ranges. -/
structure SlotsOk (n : Numerics) (v : Slots) : Prop where
  v0 : SlotOk n v.v0
  v1 : SlotOk n v.v1
  v2 : SlotOk n v.v2

/-- The slots and every polygon made of them are in their ranges. -/
structure VertexInv (s : State) : Prop where
  slots : SlotsOk s.cfg.numerics s.slots
  polys : ∀ p ∈ s.polys, SlotsOk s.cfg.numerics p.v

/-- While the drain gate is closed a timer fire is pending, so the gate opens again (R53, R192, R316). -/
def GateInv (s : State) : Prop := drainGateOpen s = false → s.timerArmed = true

/-- The event that a step takes is a register write whose CORE bit asks for a full reset, or an `init`. -/
def resetsBlock (p : Params) (e : HostEvent) : Bool :=
  match e with
  | .write addr value =>
    decide (decode (.regw (homeAddr p addr) value) = .coreReset value) && namedBit p regCoreReset value bitResetCore
  | .init _ _ _ _ _ => true
  | .read _ | .timerFire | .updateDisplay _ _ _ _ _ | .close | .vblank _ => false

end Sys2Proof.Machine
end

