-- ==== Sys2Proof/Certificates/Slice0/Obligations.lean ====
section
/-! DEFINITION. The statements for the provers. Each is about all states or all operands; the rules of spec/
that each formalises are named in its docstring and in OBLIGATIONS.json. -/

open Sys2Proof Sys2Proof.Machine

-- encodings

/-- Decoding the encoding of a well-formed instruction gives it back, every operand included (R100 to R111).
No bit of an operand is dropped; that each bit is read right is `Obligations.WordsDecode` and the tests. -/
def Obligations.DecodeEncode : Prop := ∀ i : Instr, i.wf = true → decode (encode i) = i

/-- Encoding what an access decodes to gives the access back, but for the ignored bits 19:16 of an address
that selects a register, which are written 0 (R71, R100, R102, R113; notes/assumptions/19.md). The rebindable
tables of R7 lose no address either: each place holds one register, and where no two entries of a table share a
place, each bank, register and named bit stands where the table says (R7, R31). -/
def Obligations.EncodeDecode : Prop :=
  (∀ (a : RegAddr) (v : Word), encode (decode (.regw a v)) =
    .regw (if a.extractLsb' 0 2 ≠ 0#2 ∨ a.getLsbD 15 = true then a else a &&& 0x0FFFF#20) v) ∧
  (∀ a : RegAddr, encode (decode (.regr a)) =
    .regr (if a.extractLsb' 0 2 ≠ 0#2 ∨ a.getLsbD 15 = true then a else a &&& 0x0FFFF#20)) ∧
  (∀ w : BitVec 40, encode (decode (.cmd w)) = .cmd w) ∧
  (∀ (p : Params) (a : RegAddr), homeAddr p (placeAddr p a) = a ∧ placeAddr p (homeAddr p a) = a) ∧
  (∀ (p : Params) (r : RegName), placeAddr p r.addr = (placeReg p r).addr) ∧
  ∀ p : Params, p.wf = true →
    (∀ e ∈ bankTable p, ∀ w, (placeReg p ⟨e.1, w⟩).bank = e.2) ∧
    (∀ b, ∀ e ∈ offsetTable p b, (placeReg p ⟨b, e.1⟩).word = e.2) ∧
    ∀ r, ∀ e ∈ bitTable p r, bitPlace p r e.1 = e.2

/-- The map of R104, written out from its table: bank and byte offset to operation. -/
def Sys2Proof.Spec.writeMap (bank offset : Nat) (v : Word) : Instr :=
  match bank, offset with
  | 0, 0x010 => .coreReset v
  | 0, 0x00C => .coreConfig v
  | 0, 0x008 => .coreStatus v
  | 1, 0x000 => .polyControl v
  | 1, 0x004 => .polyVertex v
  | 1, 0x008 => .polyNormal v
  | 1, 0x00C => .polyColor v
  | 1, 0x010 => .polyTexcoord v
  | 2, 0x000 => .texControl v
  | 2, 0x004 => .texAddr v
  | 2, 0x00C => .texFilter v
  | 2, 0x008 => .texFormat v
  | 3, 0x000 => .renderControl v
  | 3, 0x004 => .renderZbuffer v
  | 3, 0x008 => .renderBlend v
  | 4, o => .pciStore (BitVec.ofNat 10 (o / 4)) v
  | 5, 0x000 => .videoFbaddr v
  | 5, 0x004 => .videoStride v
  | 6, 0x000 => .dmaControl v
  | 6, 0x004 => .dmaSrc v
  | 6, 0x008 => .dmaDest v
  | 6, 0x00C => .dmaCount v
  | 7, 0x008 => .intClear v
  | 7, 0x000 => .intStatus v
  | 7, 0x004 => .intMask v
  | 7, o => .intStore (BitVec.ofNat 10 (o / 4)) v
  | b, o => .regStore (BitVec.ofNat 3 b) (BitVec.ofNat 10 (o / 4)) v

/-- The decode of a register access: ALIGN first, then BANK above 7, then the maps of R104 and R105. The place
of the bank test and its reach are the spec's decision D4 (R101), and so is that bits 19:16 take no part (R71,
notes/assumptions/19.md). -/
def Obligations.AccessDecodeOrder : Prop := ∀ (a : RegAddr) (v : Word),
  (a.extractLsb' 0 2 ≠ 0#2 →
    decode (.regw a v) = .regUnalignedWr a v ∧ decode (.regr a) = .regUnalignedRd a) ∧
  (a.extractLsb' 0 2 = 0#2 → 7 < (a.extractLsb' 12 4).toNat →
    decode (.regw a v) = .regUnknownWr a v ∧ decode (.regr a) = .regUnknownRd a) ∧
  (a.extractLsb' 0 2 = 0#2 → (a.extractLsb' 12 4).toNat ≤ 7 →
    decode (.regw a v) = Sys2Proof.Spec.writeMap (a.extractLsb' 12 4).toNat (4 * (a.extractLsb' 2 10).toNat) v ∧
    decode (.regr a) =
      if (a.extractLsb' 12 4).toNat = 0 ∧ 4 * (a.extractLsb' 2 10).toNat = 0x008 then .coreStatusRd
      else .regLoad (a.extractLsb' 12 3) (a.extractLsb' 2 10))

/-- Words written out from the spec's encodings decode to the instructions they stand for (R31, R103, R104,
R107 to R110). -/
def Obligations.WordsDecode : Prop :=
  decode (.regw 0x00010#20 0x1#32) = .coreReset 0x1#32 ∧
  decode (.regw 0x01008#20 0xFF0000FF#32) = .polyNormal 0xFF0000FF#32 ∧
  decode (.regw 0xF200C#20 0x2#32) = .texFilter 0x2#32 ∧
  decode (.regw 0x03000#20 0x1#32) = .renderControl 0x1#32 ∧
  decode (.regw 0x04FFC#20 0x5#32) = .pciStore 0x3FF#10 0x5#32 ∧
  decode (.regw 0x0600C#20 0x10#32) = .dmaCount 0x10#32 ∧
  decode (.regr 0x00008#20) = .coreStatusRd ∧
  decode (.regr 0x06010#20) = .regLoad 6#3 4#10 ∧
  decode (.cmd 0x0128000800#40) = .cmdVertex 160#10 0#10 0x800#12 ∧
  decode (.cmd 0x0202800400#40) = .cmdTexUv 0x800#12 0x400#12 ∧
  decode (.cmd 0x03FF0000FF#40) = .cmdColor 0xFF#8 0x00#8 0x00#8 0xFF#8 ∧
  decode (.cmd 0x0400FF00FF#40) = .cmdUnknown 0x04#8 0x00FF00FF#32

-- steps

/-- A step on a host access runs the instruction the access decodes to, with the event taken from the inbox
(R20, R130, R156): the address is read as the tables of R7 bind it, with the default tables as it stands; an
address that selects no register is never moved. The per-instruction statements reach a run through this one
and `TimerFire`. -/
def Obligations.StepRunsDecodedAccess : Prop :=
  ∀ (s : State) (a : RegAddr) (v : Word) (rest : List HostEvent), s.closed = false →
    (s.inbox = .write a v :: rest →
      step s = exec (decode (.regw (homeAddr s.cfg a) v)) { s with inbox := rest }) ∧
    (s.inbox = .read a :: rest → step s = exec (decode (.regr (homeAddr s.cfg a))) { s with inbox := rest }) ∧
    (s.cfg.bankId = {} → s.cfg.offset = {} → homeAddr s.cfg a = a) ∧
    (a.extractLsb' 0 2 ≠ 0#2 ∨ a.getLsbD 15 = true → homeAddr s.cfg a = a)

/-- The dispatch of a queued command runs the instruction its command word decodes to; it pushes nothing and
pops nothing (R102, R210). -/
def Obligations.DispatchRunsDecodedCommand : Prop := ∀ (c : CmdId) (d : Word) (s : State),
  dispatch c d s = exec (decode (.cmd (cmdWord c d))) s ∧ ∀ t, dispatch c d s = .next t → t.fifo = s.fifo

-- the register front-end: stores

/-- A rejected write logs and changes nothing: an unaligned one, one to a bank above 7, one to
REG.CORE.STATUS, each with its encoding (R131, R132, R139). That a bank above 7 is an unknown register is the
spec's decision D4, as R132 marks it. -/
def Obligations.RejectedWritesOnlyLog : Prop := ∀ (a : RegAddr) (v : Word) (s : State),
  (a.extractLsb' 0 2 ≠ 0#2 → decode (.regw a v) = .regUnalignedWr a v) ∧
  (a.extractLsb' 0 2 = 0#2 → a.getLsbD 15 = true → decode (.regw a v) = .regUnknownWr a v) ∧
  decode (.regw 0x00008#20 v) = .coreStatus v ∧
  Completes (exec (.regUnalignedWr a v) s) (fun t =>
    t = { s with out := .diag (.unaligned a (some v)) :: s.out } ∧ MemSame s t) ∧
  Completes (exec (.regUnknownWr a v) s) (fun t =>
    t = { s with out := .diag (.unknownReg a true) :: s.out } ∧ MemSame s t) ∧
  Completes (exec (.coreStatus v) s) (fun t =>
    t = { s with out := .diag (.statusWrite v) :: s.out } ∧ MemSame s t)

/-- A passive store writes its one word and nothing else; each with its encoding (R134, R140, R164). -/
def Obligations.PassiveStores : Prop := ∀ (v : Word) (s : State),
  (∀ b w, (Instr.regStore b w v).wf = true →
    decode (.regw (RegName.mk b w).addr v) = .regStore b w v ∧
    StoresWith ⟨b, w⟩ v (fun u => u) s (exec (.regStore b w v) s)) ∧
  (∀ w, decode (.regw (RegName.mk 4#3 w).addr v) = .pciStore w v ∧
    StoresWith ⟨bankPci, w⟩ v (fun u => u) s (exec (.pciStore w v) s)) ∧
  (∀ w, (Instr.intStore w v).wf = true →
    decode (.regw (RegName.mk 7#3 w).addr v) = .intStore w v ∧
    StoresWith ⟨bankInt, w⟩ v (fun u => u) s (exec (.intStore w v) s)) ∧
  decode (.regw 0x07000#20 v) = .intStatus v ∧ decode (.regw 0x07004#20 v) = .intMask v ∧
  StoresWith regIntStatus v (fun u => u) s (exec (.intStatus v) s) ∧
  StoresWith regIntMask v (fun u => u) s (exec (.intMask v) s)

/-- The mirrored stores of banks poly and tex, with their encodings; TEX.FORMAT also decodes its size code and
format nibble, by default bits 2:0 and 7:4, one size code for both dimensions (R141, R146 to R149). The fields
and the square shape are the spec's decision D11 (notes/assumptions/11.md). -/
def Obligations.PolyTexMirrors : Prop := ∀ (v : Word) (s : State),
  decode (.regw 0x01000#20 v) = .polyControl v ∧ decode (.regw 0x02000#20 v) = .texControl v ∧
  decode (.regw 0x02004#20 v) = .texAddr v ∧ decode (.regw 0x0200C#20 v) = .texFilter v ∧
  decode (.regw 0x02008#20 v) = .texFormat v ∧
  StoresWith regPolyControl v (fun u => { u with curFlags := v }) s (exec (.polyControl v) s) ∧
  StoresWith regTexControl v (fun u => { u with texControl := v }) s (exec (.texControl v) s) ∧
  StoresWith regTexAddr v (fun u => { u with texAddr := v }) s (exec (.texAddr v) s) ∧
  StoresWith regTexFilter v (fun u => { u with texFilter := v }) s (exec (.texFilter v) s) ∧
  StoresWith regTexFormat v
    (fun u => { u with
      texFormatBits := v
      texDesc := ⟨v.extractLsb' s.cfg.bits.texFmt.toNat 4,
        8 * 2 ^ (v.toNat >>> s.cfg.bits.texSizeCode.toNat % 8),
        8 * 2 ^ (v.toNat >>> s.cfg.bits.texSizeCode.toNat % 8)⟩ })
    s (exec (.texFormat v) s)

/-- The mirrored stores of banks render (R153) and dma (R162), with their encodings: no render and no transfer
starts. That no rule reads a mirror of R153 is left to the statements on rendering. -/
def Obligations.RenderDmaMirrors : Prop := ∀ (v : Word) (s : State),
  decode (.regw 0x03004#20 v) = .renderZbuffer v ∧ decode (.regw 0x03008#20 v) = .renderBlend v ∧
  decode (.regw 0x06004#20 v) = .dmaSrc v ∧ decode (.regw 0x06008#20 v) = .dmaDest v ∧
  decode (.regw 0x0600C#20 v) = .dmaCount v ∧
  StoresWith regRenderZbuffer v (fun u => { u with renderZbuffer := v }) s (exec (.renderZbuffer v) s) ∧
  StoresWith regRenderBlend v (fun u => { u with renderBlend := v }) s (exec (.renderBlend v) s) ∧
  StoresWith regDmaSrc v (fun u => { u with dmaSrc := v }) s (exec (.dmaSrc v) s) ∧
  StoresWith regDmaDest v (fun u => { u with dmaDest := v }) s (exec (.dmaDest v) s) ∧
  StoresWith regDmaCount v (fun u => { u with dmaCount := v }) s (exec (.dmaCount v) s)

/-- VIDEO.STRIDE sets the pipeline's stride, unchecked; VIDEO.FBADDR gives the display-start address and does
not rebind FB (R154, R155). -/
def Obligations.VideoStores : Prop := ∀ (v : Word) (s : State),
  decode (.regw 0x05004#20 v) = .videoStride v ∧ decode (.regw 0x05000#20 v) = .videoFbaddr v ∧
  StoresWith regVideoStride v (fun u => { u with stride := v.toNat }) s (exec (.videoStride v) s) ∧
  StoresWith regVideoFbaddr v
    (fun u => { u with displayStart := v, out := .displayStart v :: u.out }) s (exec (.videoFbaddr v) s)

/-- CORE.CONFIG re-derives the tile size from its two low bits and does not rebuild the grid (R138). -/
def Obligations.ConfigSetsTileSize : Prop := ∀ (v : Word) (s : State),
  decode (.regw 0x0000C#20 v) = .coreConfig v ∧
  StoresWith regCoreConfig v (fun u => { u with tileSize := 8 * 2 ^ (v.toNat % 4) }) s (exec (.coreConfig v) s)

/-- INT.CLEAR clears in REG.INT.STATUS the bits written as 1, and is itself not stored (R163). -/
def Obligations.IntClearClearsBits : Prop := ∀ (v : Word) (s : State),
  decode (.regw 0x07008#20 v) = .intClear v ∧
  Completes (exec (.intClear v) s) fun t =>
    (∀ i, bitOf (getReg t regIntStatus) i = (bitOf (getReg s regIntStatus) i && !bitOf v i)) ∧
    RegsSameExcept [regIntStatus] s t ∧ StatusSameExcept [] s t ∧ MemSame s t ∧ t = { s with regs := t.regs }

-- the register front-end: resets

/-- The full reset of CORE.RESET bit 0 (R136): the registers of R56, the FIFO emptied, the pipeline's own
state at its `init` values, the grid rebuilt for the display; the display, the FB binding, the timer's flag,
the bytes of both memories and the outputs already given are kept (R372). What is reset and what is kept is the
spec's decision D33 (notes/assumptions/22.md); that the dead FIFO entries stay is the model's choice
(notes/assumptions/6.md). -/
def Obligations.FullReset : Prop := ∀ (v : Word) (s : State),
  namedBit s.cfg regCoreReset v bitResetCore = true →
  Completes (exec (.coreReset v) s) fun t =>
    (∀ q, getReg t q =
      if q = regCoreId then s.cfg.chipId else if q = regCoreRevision then s.cfg.chipRevision
      else if q = regCoreStatus then 1#32 <<< bitPlace s.cfg regCoreStatus bitFifoEmpty
      else if q = regCoreConfig then s.cfg.configDefault
      else if q = regTexControl then s.cfg.texControlDefault
      else if q = regTexFormat then s.cfg.texFormatDefault
      else if q = regTexFilter then s.cfg.texFilterDefault
      else if q = regRenderZbuffer then s.cfg.zbufferDefault
      else if q = regRenderBlend then s.cfg.blendDefault else 0#32) ∧
    (s.cfg.bits = {} → getReg t regCoreStatus = 0x00000001#32) ∧
    (∀ a, vramByte t a = vramByte s a) ∧ (∀ a, hostByte t a = hostByte s a) ∧
    t.tilesX = ceilDiv s.width 32 ∧ t.tilesY = ceilDiv s.height 32 ∧ t.tiles = gridTiles 32 s.width s.height ∧
    t = { s with
      regs := t.regs, fifo := { s.fifo with rd := 0, wr := 0, count := 0 }, vcount := 0,
      slots := ⟨Slot.zero, Slot.zero, Slot.zero⟩, curFlags := 0#32, texAddr := 0#32,
      texControl := s.cfg.texControlDefault, texFilter := s.cfg.texFilterDefault,
      texFormatBits := s.cfg.texFormatDefault, texDesc := decodeTexFormat s.cfg s.cfg.texFormatDefault,
      renderControl := 0#32, renderZbuffer := s.cfg.zbufferDefault, renderBlend := s.cfg.blendDefault,
      dmaControl := 0#32, dmaSrc := 0#32, dmaDest := 0#32, dmaCount := 0#32, polys := [], tileSize := 32,
      tilesX := t.tilesX, tilesY := t.tilesY, tiles := t.tiles,
      zbuf := t.zbuf, zfill := t.zfill, zallocs := t.zallocs }

/-- CORE.RESET with bit 0 clear: the value stored, then each partial-reset bit zeroes its own bank; mirrors,
FIFO, slots, polygons and STATUS are untouched (R135, R137). That they are is the spec's decision D33
(notes/assumptions/22.md). -/
def Obligations.PartialResets : Prop := ∀ (v : Word) (s : State),
  namedBit s.cfg regCoreReset v bitResetCore = false →
  Completes (exec (.coreReset v) s) fun t =>
    (∀ q, getReg t q =
      if q.bank = bankPoly ∧ namedBit s.cfg regCoreReset v bitResetGeometry = true ∨
          q.bank = bankTex ∧ namedBit s.cfg regCoreReset v bitResetTexture = true ∨
          q.bank = bankRender ∧ namedBit s.cfg regCoreReset v bitResetRender = true ∨
          q.bank = bankDma ∧ namedBit s.cfg regCoreReset v bitResetDma = true then
        0#32
      else if q = regCoreReset then v else getReg s q) ∧
    StatusSameExcept [] s t ∧ MemSame s t ∧ t = { s with regs := t.regs }

-- the command FIFO

/-- `push` (R190, R191, R192): a full FIFO drops the command, logs it and raises FIFO_FULL; otherwise the
entry is stored, FIFO_EMPTY cleared and FIFO_FULL set also when the capacity is reached, and the drain runs at
once unless a render is running or a DMA is busy. The gate is the spec's decision D17, the clearing of
FIFO_EMPTY its D16 (notes/assumptions/14.md). -/
def Obligations.Push : Prop := ∀ (c : CmdId) (d : Word) (s : State),
  (s.fifo.count = s.cfg.fifoCapacity → Completes (push c d s) (Dropped c d s)) ∧
  (s.fifo.count ≠ s.cfg.fifoCapacity →
    (statusBit s bitRenderRunning = true ∨ statusBit s bitDmaBusy = true) →
    Completes (push c d s) (Accepted c d s)) ∧
  (s.fifo.count ≠ s.cfg.fifoCapacity →
    statusBit s bitRenderRunning = false → statusBit s bitDmaBusy = false →
    ∃ u, Accepted c d s u ∧ push c d s = drain u)

/-- Commands leave the FIFO in the order they entered it (R193, R194). An accepted push appends to the live
entries; a drain runs the oldest of them one after another, at most 32, and leaves the rest; whatever it does
apart from the FIFO and the flags FIFO_EMPTY and FIFO_FULL is what those commands do in that order. -/
def Obligations.FifoOrder : Prop :=
  (∀ (c : CmdId) (d : Word) (s t : State), FifoInv s → s.fifo.count ≠ s.cfg.fifoCapacity → Accepted c d s t →
    fifoLive t.cfg.fifoCapacity t.fifo = fifoLive s.cfg.fifoCapacity s.fifo ++ [⟨c, d⟩]) ∧
  (∀ s u : State, FifoInv s → runCommands ((fifoLive s.cfg.fifoCapacity s.fifo).take 32) s = .next u →
    Completes (drain s) fun t =>
      fifoLive t.cfg.fifoCapacity t.fifo = (fifoLive s.cfg.fifoCapacity s.fifo).drop 32 ∧
      StatusSameExcept [bitFifoEmpty, bitFifoFull] u t ∧ RegsSameExcept [regCoreStatus] u t ∧
      t = { u with regs := t.regs, fifo := t.fifo })

/-- The four forwarding writes in a busy window (R142 to R145, R190): the register is stored; with room the
command, its id and the written value, is queued and nothing runs; with none it is dropped. -/
def Obligations.ForwardingWritesQueue : Prop := ∀ (v : Word) (s : State),
  (statusBit s bitRenderRunning = true ∨ statusBit s bitDmaBusy = true) →
  ∀ x ∈ [(Instr.polyVertex v, regPolyVertex, s.cfg.fwdIdVertex),
    (Instr.polyNormal v, regPolyNormal, s.cfg.fwdIdNormal),
    (Instr.polyColor v, regPolyColor, s.cfg.fwdIdColor),
    (Instr.polyTexcoord v, regPolyTexcoord, s.cfg.fwdIdTexcoord)],
  Completes (exec x.1 s) fun t => getReg t x.2.1 = v ∧
    ∃ u, RegsSameExcept [x.2.1] s u ∧ u = { s with regs := u.regs } ∧
      (s.fifo.count ≠ s.cfg.fifoCapacity → Accepted x.2.2 v u t) ∧
      (s.fifo.count = s.cfg.fifoCapacity → Dropped x.2.2 v u t)

/-- The four forwarding writes (R142 to R145): in every state each is the push of its forward id and the
written value on the state with the register stored, so with the gate open it also runs what an earlier batch
left (R190, R193, R386). Under the host's promise about FB (U5) it completes, whatever the drain runs: no
drain changes a register but the four flags of `drainFlags`, a byte outside the pixels of FB, or anything
`DrainFrame` keeps. -/
def Obligations.ForwardingWritesComplete : Prop := ∀ (v : Word) (s : State),
  ∀ x ∈ [(Instr.polyVertex v, regPolyVertex, s.cfg.fwdIdVertex),
    (Instr.polyNormal v, regPolyNormal, s.cfg.fwdIdNormal),
    (Instr.polyColor v, regPolyColor, s.cfg.fwdIdColor),
    (Instr.polyTexcoord v, regPolyTexcoord, s.cfg.fwdIdTexcoord)],
  (∃ u, getReg u x.2.1 = v ∧ RegsSameExcept [x.2.1] s u ∧ u = { s with regs := u.regs } ∧
    exec x.1 s = push x.2.2 v u) ∧
  (FbCovers s → Completes (exec x.1 s) fun t =>
    getReg t x.2.1 = v ∧ RegsSameExcept [x.2.1, regCoreStatus] s t ∧ StatusSameExcept drainFlags s t ∧
      BytesSameButPixels (fun _ _ => True) s t ∧ DrainFrame s t)

/-- A forwarding write on an idle block runs its command inside the write (R142 to R145, R190, R193): from
the state with the register stored and the command queued, the command's own step, after which the FIFO is
empty again and FIFO_EMPTY set. -/
def Obligations.IdleForwardRunsCommand : Prop := ∀ (v : Word) (s : State),
  FifoInv s → s.fifo.count = 0 → statusBit s bitRenderRunning = false → statusBit s bitDmaBusy = false →
  ∀ x ∈ [(Instr.polyVertex v, regPolyVertex, s.cfg.fwdIdVertex),
    (Instr.polyNormal v, regPolyNormal, s.cfg.fwdIdNormal),
    (Instr.polyColor v, regPolyColor, s.cfg.fwdIdColor),
    (Instr.polyTexcoord v, regPolyTexcoord, s.cfg.fwdIdTexcoord)],
  ∃ u, Accepted x.2.2 v (setReg x.2.1 v s) u ∧
    ∀ w, exec (decode (.cmd (cmdWord x.2.2 v))) u = .next w →
      Completes (exec x.1 s) fun t =>
        getReg t x.2.1 = v ∧ t.fifo.count = 0 ∧ t.fifo.rd = t.fifo.wr ∧ t.fifo.wr = u.fifo.wr ∧
        statusBit t bitFifoEmpty = true ∧ statusBit t bitFifoFull = false ∧
        StatusSameExcept [bitFifoEmpty, bitFifoFull] w t ∧ RegsSameExcept [regCoreStatus] w t ∧
        t = { w with regs := t.regs, fifo := t.fifo }

-- render control

/-- RENDER.CONTROL without START (R150, R152): stored and mirrored; with RESET the bank is zeroed and the two
render flags are cleared. -/
def Obligations.RenderControlWithoutStart : Prop := ∀ (v : Word) (s : State),
  namedBit s.cfg regRenderControl v bitStart = false →
  Completes (exec (.renderControl v) s) fun t =>
    (namedBit s.cfg regRenderControl v bitReset = false →
      getReg t regRenderControl = v ∧ RegsSameExcept [regRenderControl] s t ∧ StatusSameExcept [] s t) ∧
    (namedBit s.cfg regRenderControl v bitReset = true →
      (∀ w, getReg t ⟨bankRender, w⟩ = 0#32) ∧
      (∀ q, q.bank ≠ bankRender → q ≠ regCoreStatus → getReg t q = getReg s q) ∧
      statusBit t bitRenderBusy = false ∧ statusBit t bitRenderRunning = false ∧
      StatusSameExcept [bitRenderBusy, bitRenderRunning] s t) ∧
    MemSame s t ∧ t = { s with regs := t.regs, renderControl := v }

/-- RENDER.CONTROL with START completes under the host's promise about FB (R150 to R152, U5): the register is
stored, RENDER_BUSY raised, and the command 0x10 with the written value pushed, whether it then runs, is queued
(the gate closed, with room) or is dropped (the FIFO full); with RESET too the bank and the flags are then
cleared. -/
def Obligations.RenderControlStart : Prop := ∀ (v : Word) (s : State), FbCovers s →
  namedBit s.cfg regRenderControl v bitStart = true →
  Completes (exec (.renderControl v) s) fun t =>
    (namedBit s.cfg regRenderControl v bitReset = false →
      statusBit t bitRenderBusy = true ∧ getReg t regRenderControl = v ∧
      RegsSameExcept [regRenderControl, regCoreStatus] s t) ∧
    (namedBit s.cfg regRenderControl v bitReset = true →
      statusBit t bitRenderBusy = false ∧ statusBit t bitRenderRunning = false ∧
      (∀ w, getReg t ⟨bankRender, w⟩ = 0#32) ∧
      ∀ q, q.bank ≠ bankRender → q ≠ regCoreStatus → getReg t q = getReg s q) ∧
    (s.fifo.count = s.cfg.fifoCapacity →
      statusBit t bitFifoFull = true ∧
        t = { s with
          regs := t.regs, renderControl := v, out := .diag (.fifoFull cmdIdRenderStart v) :: s.out }) ∧
    (∃ u w : State, getReg u regRenderControl = v ∧ RegsSameExcept [regRenderControl, regCoreStatus] s u ∧
      statusBit u bitRenderBusy = true ∧ StatusSameExcept [bitRenderBusy] s u ∧
      u = { s with regs := u.regs, renderControl := v } ∧
      push 0x10#8 v u = .next w ∧ t = { w with regs := t.regs } ∧
      (namedBit s.cfg regRenderControl v bitReset = false → t = w) ∧
      ((statusBit s bitRenderRunning = true ∨ statusBit s bitDmaBusy = true) →
        s.fifo.count ≠ s.cfg.fifoCapacity → Accepted 0x10#8 v u w)) ∧
    StatusSameExcept drainFlags s t ∧ BytesSameButPixels (fun _ _ => True) s t ∧
    DrainFrame { s with renderControl := v } t

/-- A render start on an idle block renders the whole scene inside the write (R151, R218): afterwards
FIFO_EMPTY, RENDER_BUSY and RENDER_RUNNING are set and FIFO_FULL is clear, the timer is armed, no polygon is
left and FB's memory is what the walk over the tiles made of it. -/
def Obligations.IdleRenderStart : Prop := ∀ (v : Word) (s : State),
  FifoInv s → FbCovers s → s.fifo.count = 0 → statusBit s bitRenderRunning = false →
  statusBit s bitDmaBusy = false → namedBit s.cfg regRenderControl v bitStart = true →
  namedBit s.cfg regRenderControl v bitReset = false →
  Completes (exec (.renderControl v) s) fun t =>
    statusBit t bitFifoEmpty = true ∧ statusBit t bitFifoFull = false ∧ statusBit t bitRenderBusy = true ∧
    statusBit t bitRenderRunning = true ∧ StatusSameExcept drainFlags s t ∧ t.fifo.count = 0 ∧
    t.timerArmed = true ∧ t.polys = [] ∧ t.tiles = s.tiles.map emptyTile ∧
    t.out = .timerArm s.cfg.timerLatencyUs :: .frameChanged :: s.out ∧ t.zfill = .cleared ∧
    renderTiles (viewOf s) s.polys s.tiles ⟨[], fbMemory s⟩ = some ⟨t.zbuf, fbMemory t⟩ ∧
    BytesSameButPixels (fun _ _ => True) s t ∧ DrainFrame { s with renderControl := v } t

-- the DMA engine

/-- DMA.CONTROL without START (R159, R161): stored and mirrored, no transfer; with RESET the bank is zeroed
and DMA_BUSY is cleared. -/
def Obligations.DmaControlWithoutStart : Prop := ∀ (v : Word) (s : State),
  namedBit s.cfg regDmaControl v bitStart = false →
  Completes (exec (.dmaControl v) s) fun t =>
    (namedBit s.cfg regDmaControl v bitReset = false →
      getReg t regDmaControl = v ∧ RegsSameExcept [regDmaControl] s t ∧ StatusSameExcept [] s t) ∧
    (namedBit s.cfg regDmaControl v bitReset = true →
      (∀ w, getReg t ⟨bankDma, w⟩ = 0#32) ∧
      (∀ q, q.bank ≠ bankDma → q ≠ regCoreStatus → getReg t q = getReg s q) ∧
      statusBit t bitDmaBusy = false ∧ StatusSameExcept [bitDmaBusy] s t) ∧
    MemSame s t ∧ t = { s with regs := t.regs, dmaControl := v }

/-- A DMA start whose parameters are in range, on disjoint ranges (R300 to R304; the premises of U6 and U7):
every byte of the destination is the source's byte from before the copy, every other byte is unchanged; the
transfer concludes with DONE set, ACTIVE clear and the timer armed, before a RESET of the same write. -/
def Obligations.DmaCopies : Prop := ∀ (v : Word) (s : State), namedBit s.cfg regDmaControl v bitStart = true →
  dmaSource s < s.cfg.vramSize → dmaTarget s < s.cfg.vramSize → dmaTarget s + dmaSize s ≤ s.cfg.vramSize →
  dmaSource s + dmaSize s ≤ s.cfg.vramSize →
  (dmaSource s + dmaSize s ≤ dmaTarget s ∨ dmaTarget s + dmaSize s ≤ dmaSource s) →
  Completes (exec (.dmaControl v) s) fun t =>
    (∀ k, k < dmaSize s → vramByte t (dmaTarget s + k) = vramByte s (dmaSource s + k)) ∧
    (∀ a, (a < dmaTarget s ∨ dmaTarget s + dmaSize s ≤ a) → vramByte t a = vramByte s a) ∧
    (∀ a, hostByte t a = hostByte s a) ∧ (∀ k, zSample t k = zSample s k) ∧ DmaStarted v s t ∧
    t = { s with
      regs := t.regs, vram := t.vram, dmaControl := v, timerArmed := true,
      out := .timerArm s.cfg.timerLatencyUs :: s.out }

/-- A DMA start whose source, destination or end of destination is out of VRAM copies nothing, is logged, and
concludes like a successful one (R302 to R304). -/
def Obligations.DmaOutOfRangeSkips : Prop := ∀ (v : Word) (s : State),
  namedBit s.cfg regDmaControl v bitStart = true →
  (s.cfg.vramSize ≤ dmaSource s ∨ s.cfg.vramSize ≤ dmaTarget s ∨
    s.cfg.vramSize < dmaTarget s + dmaSize s) →
  Completes (exec (.dmaControl v) s) fun t =>
    MemSame s t ∧ DmaStarted v s t ∧
    t = { s with
      regs := t.regs, dmaControl := v, timerArmed := true,
      out := .timerArm s.cfg.timerLatencyUs ::
        .diag (.dmaRange (dmaSource s) (dmaTarget s) (dmaSize s)) :: s.out }

/-- A DMA that failed is not distinguishable from one that succeeded by any register (R342): two starts from
the same registers, with the bits at the same positions, whatever the size of VRAM and its bytes, leave the
same registers. -/
def Obligations.DmaFailureNotInRegisters : Prop := ∀ (v : Word) (s s' t t' : State), s'.regs = s.regs →
  s'.cfg.bits = s.cfg.bits →
  exec (.dmaControl v) s = .next t → exec (.dmaControl v) s' = .next t' → t'.regs = t.regs

-- host reads

/-- A host read returns the word it selects and changes nothing; a rejected one is logged and returns
READ_SENTINEL (R156). That the sentinel is 0xFFFFFFFF, and that a bank above 7 returns it, is the spec's
decision D5; `State.reset` holds the default of the parameter (notes/assumptions/1.md). -/
def Obligations.Loads : Prop := ∀ (b : BitVec 3) (w : BitVec 10) (a : RegAddr) (s : State),
  State.reset.cfg.readSentinel = 0xFFFFFFFF#32 ∧
  (a.extractLsb' 0 2 ≠ 0#2 → decode (.regr a) = .regUnalignedRd a) ∧
  (a.extractLsb' 0 2 = 0#2 → a.getLsbD 15 = true → decode (.regr a) = .regUnknownRd a) ∧
  (a.extractLsb' 0 2 = 0#2 → a.getLsbD 15 = false →
    RegName.mk (a.extractLsb' 12 3) (a.extractLsb' 2 10) ≠ regCoreStatus → decode (.regr a) =
      .regLoad (a.extractLsb' 12 3) (a.extractLsb' 2 10)) ∧
  Completes (exec (.regLoad b w) s) (fun t =>
    t = { s with out := .readData (getReg s ⟨b, w⟩) :: s.out } ∧ MemSame s t) ∧
  Completes (exec (.regUnalignedRd a) s) (fun t =>
    t = { s with out := .readData s.cfg.readSentinel :: .diag (.unaligned a none) :: s.out } ∧ MemSame s t) ∧
  Completes (exec (.regUnknownRd a) s) (fun t =>
    t = { s with out := .readData s.cfg.readSentinel :: .diag (.unknownReg a false) :: s.out } ∧ MemSame s t)

/-- A read of REG.CORE.STATUS stores the sampled vertical blank in bit 6 and returns the word; every other
bit is as it stands (R157). -/
def Obligations.StatusRead : Prop := ∀ s : State,
  decode (.regr 0x00008#20) = .coreStatusRd ∧ Completes (exec .coreStatusRd s) fun t =>
  statusBit t bitVblank = s.crtVblank ∧ StatusSameExcept [bitVblank] s t ∧
  RegsSameExcept [regCoreStatus] s t ∧ MemSame s t ∧
  t = { s with regs := t.regs, out := .readData (getReg t regCoreStatus) :: s.out }

-- the commands

/-- CMD.VERTEX, with its encoding, as the first or second vertex (R103, R107, R211): the open slot takes the
position, scaled by the display as it stands, and keeps its colour and texture coordinates; the count moves on.
In exact arithmetic the position is that of R107. -/
def Obligations.VertexFillsOpenSlot : Prop :=
  (∀ d : Word, decode (.cmd (cmdWord 0x01#8 d)) =
    .cmdVertex (d.extractLsb' 22 10) (d.extractLsb' 12 10) (d.extractLsb' 0 12)) ∧
  ∀ (x y : BitVec 10) (z : BitVec 12) (s : State), s.vcount ≠ 2 →
  Completes (exec (.cmdVertex x y z) s) fun t =>
    t.vcount.val = s.vcount.val + 1 ∧
    slotAt t.slots s.vcount = { slotAt s.slots s.vcount with
      x := coordOf s.cfg.numerics x s.width, y := coordOf s.cfg.numerics y s.height,
      z := depthOf s.cfg.numerics z, zraw := z, w := 1 } ∧
    (s.cfg.numerics = .exact →
      (slotAt t.slots s.vcount).x = (x.toNat : Rat) * s.width / 1024 ∧
      (slotAt t.slots s.vcount).y = (y.toNat : Rat) * s.height / 1024 ∧
      (slotAt t.slots s.vcount).z = (z.toNat : Rat) / 4096) ∧
    (∀ i, i ≠ s.vcount → slotAt t.slots i = slotAt s.slots i) ∧
    RegsSameExcept [] s t ∧ StatusSameExcept [] s t ∧ MemSame s t ∧
    t = { s with slots := t.slots, vcount := t.vcount }

/-- CMD.VERTEX as the third vertex, with room in the polygon buffer (R211, R240): one new polygon, of full
copies of the three slots, the current texture address and flags and the z-sort key; the count is 0 again. In
exact arithmetic the position is that of R107. -/
def Obligations.ThirdVertexFinalizes : Prop := ∀ (x y : BitVec 10) (z : BitVec 12) (s : State),
  s.vcount = 2 → s.polyCount ≠ s.cfg.maxPolygons →
  Completes (exec (.cmdVertex x y z) s) fun t =>
    t.vcount = 0 ∧
    t.slots = { s.slots with v2 := { s.slots.v2 with
      x := coordOf s.cfg.numerics x s.width, y := coordOf s.cfg.numerics y s.height,
      z := depthOf s.cfg.numerics z, zraw := z, w := 1 } } ∧
    (s.cfg.numerics = .exact →
      t.slots.v2.x = (x.toNat : Rat) * s.width / 1024 ∧ t.slots.v2.y = (y.toNat : Rat) * s.height / 1024 ∧
      t.slots.v2.z = (z.toNat : Rat) / 4096) ∧
    t.polys = s.polys ++
      [{ v := t.slots, texAddr := s.texAddr, flags := s.curFlags, numVertices := 3
         zkey := zkey s.cfg.zkeyRounding s.slots.v0.zraw s.slots.v1.zraw z }] ∧
    RegsSameExcept [] s t ∧ StatusSameExcept [] s t ∧ MemSame s t ∧
    t = { s with slots := t.slots, vcount := 0, polys := t.polys, tiles := t.tiles }

/-- The third vertex with the polygon buffer full (R211, R246): the third slot takes its position, the first
two stay, the polygon is dropped and logged, nothing is binned, and the count is still reset. -/
def Obligations.PolygonOverflow : Prop := ∀ (x y : BitVec 10) (z : BitVec 12) (s : State),
  s.vcount = 2 → s.polyCount = s.cfg.maxPolygons →
  Completes (exec (.cmdVertex x y z) s) fun t =>
    t.slots = { s.slots with v2 := { s.slots.v2 with
      x := coordOf s.cfg.numerics x s.width, y := coordOf s.cfg.numerics y s.height,
      z := depthOf s.cfg.numerics z, zraw := z, w := 1 } } ∧
    (s.cfg.numerics = .exact →
      t.slots.v2.x = (x.toNat : Rat) * s.width / 1024 ∧ t.slots.v2.y = (y.toNat : Rat) * s.height / 1024 ∧
      t.slots.v2.z = (z.toNat : Rat) / 4096) ∧
    RegsSameExcept [] s t ∧ StatusSameExcept [] s t ∧ MemSame s t ∧
    t = { s with slots := t.slots, vcount := 0, out := .diag .polyOverflow :: s.out }

/-- Binning (R242 to R244): with a grid of at least one tile, the new polygon is appended once to the list of
each tile of the clamped rectangle of its bounding box, and to no other; no rectangle of a tile changes. -/
def Obligations.Binning : Prop := ∀ (x y : BitVec 10) (z : BitVec 12) (s t : State),
  s.vcount = 2 → s.polyCount ≠ s.cfg.maxPolygons → exec (.cmdVertex x y z) s = .next t →
  let tileOf : Rat → Nat → Int := fun q n => max 0 (min ((n : Int) - 1) (q.floor / (s.tileSize : Int)))
  let xs := fun f : Rat → Rat → Rat => f (f t.slots.v0.x t.slots.v1.x) t.slots.v2.x
  let ys := fun f : Rat → Rat → Rat => f (f t.slots.v0.y t.slots.v1.y) t.slots.v2.y
  t.tiles.length = s.tiles.length ∧
  ((s.tilesX = 0 ∨ s.tilesY = 0) → t.tiles = s.tiles) ∧
  ∀ i j : Nat, i < s.tilesX → j < s.tilesY → ∀ tile, s.tiles[j * s.tilesX + i]? = some tile →
    t.tiles[j * s.tilesX + i]? = some { tile with
      list := tile.list ++
        if tileOf (xs min) s.tilesX ≤ i ∧ (i : Int) ≤ tileOf (xs max) s.tilesX ∧
            tileOf (ys min) s.tilesY ≤ j ∧ (j : Int) ≤ tileOf (ys max) s.tilesY then [s.polyCount] else [] }

/-- The z-sort key is the sum of the three depths times 1365, rounded half up by default, as the other modes of
ZKEY_ROUNDING say otherwise, and lies in 0..4094 in each (R7, R241; the modes beside the default are the
model's reading of "rounding mode", notes/assumptions/28.md). -/
def Obligations.ZkeyRounds : Prop := Params.assumed.zkeyRounding = .halfUp ∧ ∀ a b c : BitVec 12,
  let q := (depthOf .exact a + depthOf .exact b + depthOf .exact c) * 1365
  ((zkey .halfUp a b c : Nat) : Int) = (q + 1 / 2).floor ∧
  ((zkey .halfDown a b c : Nat) : Int) = (q - 1 / 2).ceil ∧
  ((zkey .down a b c : Nat) : Int) = q.floor ∧
  (|((zkey .halfEven a b c : Nat) : Rat) - q| ≤ 1 / 2 ∧
    (|((zkey .halfEven a b c : Nat) : Rat) - q| = 1 / 2 → zkey .halfEven a b c % 2 = 0)) ∧
  ∀ mode, zkey mode a b c ≤ 4094

/-- CMD.TEX.ADDR and CMD.TEX.FORMAT, with their encodings, set the pipeline's own state, zero-extended, and no
register; the format command decodes nothing (R103, R108, R213, R215). -/
def Obligations.TexCommandsSetState : Prop :=
  (∀ d : Word, d.extractLsb' 24 8 = 0x01#8 →
    decode (.cmd (cmdWord 0x02#8 d)) = .cmdTexAddr (d.extractLsb' 0 24)) ∧
  (∀ d : Word, d.extractLsb' 24 8 = 0x03#8 →
    decode (.cmd (cmdWord 0x02#8 d)) = .cmdTexFormat (d.extractLsb' 0 24)) ∧
  ∀ (arg : BitVec 24) (s : State),
  Completes (exec (.cmdTexAddr arg) s) (fun t =>
    t.texAddr.toNat = arg.toNat ∧ MemSame s t ∧ t = { s with texAddr := t.texAddr }) ∧
  Completes (exec (.cmdTexFormat arg) s) (fun t =>
    t.texFormatBits.toNat = arg.toNat ∧ MemSame s t ∧ t = { s with texFormatBits := t.texFormatBits })

/-- CMD.TEX.UV and CMD.COLOR, with their encodings, change the texture coordinates and the colour of the open
slot, and of no other slot (R214, R216, R220); in exact arithmetic to the fields over 4096 and over 255. The
divisor 255 is the spec's decision D26, the places of the fields its D18 (notes/assumptions/11.md). -/
def Obligations.AttributesGoToOpenSlot : Prop := ∀ (s : State),
  (∀ d : Word, d.extractLsb' 24 8 = 0x02#8 →
    decode (.cmd (cmdWord 0x02#8 d)) = .cmdTexUv (d.extractLsb' 12 12) (d.extractLsb' 0 12)) ∧
  (∀ d : Word, decode (.cmd (cmdWord 0x03#8 d)) =
    .cmdColor (d.extractLsb' 24 8) (d.extractLsb' 16 8) (d.extractLsb' 8 8) (d.extractLsb' 0 8)) ∧
  (∀ u v : BitVec 12, Completes (exec (.cmdTexUv u v) s) fun t =>
    slotAt t.slots s.vcount = { slotAt s.slots s.vcount with
      u := texCoordOf s.cfg.numerics u, v := texCoordOf s.cfg.numerics v } ∧
    (s.cfg.numerics = .exact → (slotAt t.slots s.vcount).u = (u.toNat : Rat) / 4096 ∧
      (slotAt t.slots s.vcount).v = (v.toNat : Rat) / 4096) ∧
    (∀ i, i ≠ s.vcount → slotAt t.slots i = slotAt s.slots i) ∧ MemSame s t ∧ t = { s with slots := t.slots }) ∧
  (∀ r g b a : BitVec 8, Completes (exec (.cmdColor r g b a) s) fun t =>
    slotAt t.slots s.vcount = { slotAt s.slots s.vcount with color := colorOf s.cfg.numerics r g b a } ∧
    (s.cfg.numerics = .exact → (slotAt t.slots s.vcount).color =
      ⟨(r.toNat : Rat) / 255, (g.toNat : Rat) / 255, (b.toNat : Rat) / 255, (a.toNat : Rat) / 255⟩) ∧
    (∀ i, i ≠ s.vcount → slotAt t.slots i = slotAt s.slots i) ∧ MemSame s t ∧ t = { s with slots := t.slots })

/-- An unknown command id, and a texture command of unknown sub-type, with their encodings, are logged with
their word and change nothing (R217, R219). That an unknown sub-type is such a command is the spec's decision
D38, as R217 marks it. -/
def Obligations.UnknownCommandsOnlyLog : Prop := ∀ (s : State),
  (∀ d : Word, d.extractLsb' 24 8 ∉ [0x01#8, 0x02#8, 0x03#8] →
    decode (.cmd (cmdWord 0x02#8 d)) = .cmdTexUnknown (d.extractLsb' 24 8) (d.extractLsb' 0 24)) ∧
  (∀ (c : CmdId) (d : Word), c ∉ [0x01#8, 0x02#8, 0x03#8, 0x10#8] →
    decode (.cmd (cmdWord c d)) = .cmdUnknown c d) ∧
  (∀ (sub : BitVec 8) (arg : BitVec 24), Completes (exec (.cmdTexUnknown sub arg) s) fun t =>
    t = { s with out := .diag (.unknownCmd 0x02#8 (sub ++ arg : BitVec (8 + 24))) :: s.out } ∧ MemSame s t) ∧
  (∀ (c : CmdId) (d : Word), Completes (exec (.cmdUnknown c d) s) fun t =>
    t = { s with out := .diag (.unknownCmd c d) :: s.out } ∧ MemSame s t)

/-- CMD.RENDER_START, with its encoding, completes under the host's promise about FB (R103, R110, R218, R255,
U5): no polygon is left and every tile's list is empty, the render flags are set, the timer is armed, one
frame_changed goes out; a byte changes only where a live polygon, neither culled nor degenerate, covers the
pixel it belongs to. -/
def Obligations.RenderStart : Prop := ∀ (d : Word) (s : State),
  decode (.cmd (cmdWord 0x10#8 d)) = .cmdRenderStart d ∧
  (FbCovers s → Completes (exec (.cmdRenderStart d) s) fun t =>
    t.polys = [] ∧ t.tiles = s.tiles.map (fun tile => { tile with list := [] }) ∧ t.zfill = .cleared ∧
    statusBit t bitRenderBusy = true ∧ statusBit t bitRenderRunning = true ∧
    StatusSameExcept [bitRenderBusy, bitRenderRunning] s t ∧ RegsSameExcept [regCoreStatus] s t ∧
    BytesSameButPixels (fun px py => ∃ p ∈ s.polys, culled (viewOf s) p = false ∧
      degenerate (viewOf s) p.v = false ∧ covered (weightsAt (viewOf s) p.v px py) = true) s t ∧
    t = { s with
      regs := t.regs, polys := [], tiles := t.tiles, zbuf := t.zbuf, zfill := .cleared, timerArmed := true,
      hostMem := t.hostMem, vram := t.vram, out := .timerArm s.cfg.timerLatencyUs :: .frameChanged :: s.out })

/-- A render start with nothing to draw clears ZBUF to 0xFFFF and changes no byte of either memory, whatever
the host bound as FB (R218, R255). -/
def Obligations.EmptySceneChangesNoByte : Prop := ∀ (d : Word) (s : State), (∀ tile ∈ s.tiles, tile.list = []) →
  Completes (exec (.cmdRenderStart d) s) fun t =>
    (∀ k, zSample t k = 0xFFFF#16) ∧ (∀ a, vramByte t a = vramByte s a) ∧ (∀ a, hostByte t a = hostByte s a) ∧
    t.timerArmed = true ∧ statusBit t bitRenderRunning = true

-- the rasterizer

/-- The depth sort (R257): the same references, keys never rising, and references of equal key in the order
they had in the list. -/
def Obligations.SortIsDescendingAndStable : Prop := ∀ (key : Nat → Nat) (l : List Nat),
  (sortDescending key l).Perm l ∧ (sortDescending key l).Pairwise (fun p q => key q ≤ key p) ∧
  ∀ k, (sortDescending key l).filter (fun p => key p == k) = l.filter (fun p => key p == k)

/-- The finished frame, pixel by pixel (R255, R257, R258, R266, R271): where rows do not overlap, the depth of
a pixel and its bytes in FB are what the painter's fold over the tiles in row-major order, each one's polygons
far to near, makes of that pixel alone; a pixel that nothing draws keeps its bytes. What the fold asks of a
polygon is, in exact arithmetic: the cull flags reject a negative and a positive cull area (R259), an area below
1/1000000 draws nothing (R262), the box is that of R260, in R261's mode also the tile's, and it holds every
covered pixel of the display. -/
def Obligations.FrameIsPaintersFold : Prop :=
  (∀ (d : Word) (s t : State) (px py : Nat),
    exec (.cmdRenderStart d) s = .next t → s.width ≤ s.stride → px < s.width → py < s.height →
    zSample t (py * s.width + px) = (framePixel (viewOf s) s.polys s.tiles px py).1 ∧
    ∀ k, k < pixelSize s.bpp →
      fbByte t (pixelOffset (viewOf s) px py + k) =
        match (framePixel (viewOf s) s.polys s.tiles px py).2 with
        | none => fbByte s (pixelOffset (viewOf s) px py + k)
        | some c => (pixelBytes s.cfg.numerics s.bpp c).getD k 0#8) ∧
  ∀ (view : View) (p : Polygon) (tile : Tile), view.cfg.numerics = .exact →
    let v := p.v
    let a := (v.v1.x - v.v0.x) * (v.v2.y - v.v0.y) - (v.v1.y - v.v0.y) * (v.v2.x - v.v0.x)
    (culled view p = true ↔
      namedBit view.cfg regPolyControl p.flags bitCullCcw = true ∧ a < 0 ∨
        namedBit view.cfg regPolyControl p.flags bitCullCw = true ∧ 0 < a) ∧
    (degenerate view v = true ↔
      |(v.v2.x - v.v0.x) * (v.v1.y - v.v0.y) - (v.v2.y - v.v0.y) * (v.v1.x - v.v0.x)| < 1 / 1000000) ∧
    (∀ px py : Nat, (px, py) ∈ boxPixels (drawBox view tile v) ↔
      (min (min v.v0.x v.v1.x) v.v2.x).floor ≤ px ∧ (px : Int) ≤ (max (max v.v0.x v.v1.x) v.v2.x).ceil ∧
      (min (min v.v0.y v.v1.y) v.v2.y).floor ≤ py ∧ (py : Int) ≤ (max (max v.v0.y v.v1.y) v.v2.y).ceil ∧
      px < view.width ∧ py < view.height ∧
      (view.cfg.clipToTile = true →
        tile.x ≤ px ∧ px < tile.x + tile.w ∧ tile.y ≤ py ∧ py < tile.y + tile.h)) ∧
    (view.cfg.clipToTile = false → 0 ≤ view.cfg.sampleOffset → view.cfg.sampleOffset < 1 →
      degenerate view v = false → ∀ px py, px < view.width → py < view.height →
      covered (weightsAt view v px py) = true → (px, py) ∈ boxPixels (drawBox view tile v))

/-- The weights of a triangle that is not degenerate, in exact arithmetic: they sum to 1 and interpolate the
sample point, by default the centre px + 1/2, py + 1/2 of the pixel (R263, R264, the spec's D22 and D23), so weight
i is 1 at vertex i and 0 at the other two; exchanging two vertices exchanges their weights, so coverage does not
depend on the winding (U2, notes/assumptions/10.md); the cull area is the negative of the raster area (R259,
R262, R265). -/
def Obligations.WeightsInterpolate : Prop := Params.assumed.sampleOffset = 1 / 2 ∧
  ∀ (view : View) (v : Slots), view.cfg.numerics = .exact → rasterArea .exact v ≠ 0 →
  (∀ px py, (weightsAt view v px py).w0 + (weightsAt view v px py).w1 + (weightsAt view v px py).w2 = 1 ∧
    (weightsAt view v px py).w0 * v.v0.x + (weightsAt view v px py).w1 * v.v1.x +
      (weightsAt view v px py).w2 * v.v2.x = px + view.cfg.sampleOffset ∧
    (weightsAt view v px py).w0 * v.v0.y + (weightsAt view v px py).w1 * v.v1.y +
      (weightsAt view v px py).w2 * v.v2.y = py + view.cfg.sampleOffset) ∧
  (∀ px py : Nat,
    ((px : Rat) + view.cfg.sampleOffset = v.v0.x → (py : Rat) + view.cfg.sampleOffset = v.v0.y →
      weightsAt view v px py = ⟨1, 0, 0⟩) ∧
    ((px : Rat) + view.cfg.sampleOffset = v.v1.x → (py : Rat) + view.cfg.sampleOffset = v.v1.y →
      weightsAt view v px py = ⟨0, 1, 0⟩) ∧
    ((px : Rat) + view.cfg.sampleOffset = v.v2.x → (py : Rat) + view.cfg.sampleOffset = v.v2.y →
      weightsAt view v px py = ⟨0, 0, 1⟩)) ∧
  (∀ px py, weightsAt view ⟨v.v0, v.v2, v.v1⟩ px py =
    ⟨(weightsAt view v px py).w0, (weightsAt view v px py).w2, (weightsAt view v px py).w1⟩) ∧
  (∀ px py, covered (weightsAt view ⟨v.v0, v.v2, v.v1⟩ px py) = covered (weightsAt view v px py)) ∧
  edgeFn .exact v.v1 v.v2 v.v0.x v.v0.y / rasterArea .exact v = 1 ∧
  edgeFn .exact v.v2 v.v0 v.v1.x v.v1.y / rasterArea .exact v = 1 ∧
  edgeFn .exact v.v0 v.v1 v.v2.x v.v2.y / rasterArea .exact v = 1 ∧
  cullArea .exact v = - rasterArea .exact v

/-- The depth of a covered pixel in exact arithmetic is the interpolated depth times 65535, rounded down, at most
65519, so a cleared sample never rejects (R266). -/
def Obligations.DepthOfCoveredPixel : Prop := ∀ (view : View) (v : Slots) (px py : Nat),
  view.cfg.numerics = .exact → SlotsOk .exact v → rasterArea .exact v ≠ 0 →
  covered (weightsAt view v px py) = true →
  ((depth16 .exact v (weightsAt view v px py)).toNat : Int) =
    (((weightsAt view v px py).w0 * v.v0.z + (weightsAt view v px py).w1 * v.v1.z +
      (weightsAt view v px py).w2 * v.v2.z) * 65535).floor ∧
  (depth16 .exact v (weightsAt view v px py)).toNat ≤ 65519

/-- The depth test (R266): a polygon with ZTEST is rejected exactly where its depth is greater than the one
stored, an equal depth passes; otherwise its depth is written, at index row times width plus column, and no
other sample changes. -/
def Obligations.DepthTest : Prop := ∀ (view : View) (p : Polygon) (w : Weights) (px py : Nat) (z : Cells 16),
  (depthPassAndWrite view p w px py z = none ↔
    namedBit view.cfg regPolyControl p.flags bitZtest = true ∧
      cellsRead depthClear z (py * view.width + px) < depth16 view.cfg.numerics p.v w) ∧
  ∀ z', depthPassAndWrite view p w px py z = some z' → ∀ k,
    cellsRead depthClear z' k =
      if k = py * view.width + px then depth16 view.cfg.numerics p.v w else cellsRead depthClear z k

/-- The colour of a pixel in each of the four shading modes (R267): flat, the colour of vertex 0; Gouraud, the
interpolated colour; textured, the placeholder; both, their product, alpha included (the spec's D25). In exact
arithmetic every component of it lies in 0..1 where the pixel is covered (R268). -/
def Obligations.ShadeInUnit : Prop := ∀ (view : View) (p : Polygon),
  let flag := fun i => namedBit view.cfg regPolyControl p.flags i
  let c := view.cfg.texPlaceholder
  (∀ w, flag bitTextured = false → flag bitGouraud = false → shade view p w = p.v.v0.color) ∧
  (∀ w, flag bitTextured = true → flag bitGouraud = false → shade view p w = c) ∧
  (view.cfg.numerics = .exact → ∀ w,
    let mix := fun f : Rgba → Rat => w.w0 * f p.v.v0.color + w.w1 * f p.v.v1.color + w.w2 * f p.v.v2.color
    (flag bitTextured = false → flag bitGouraud = true →
      shade view p w = ⟨mix Rgba.r, mix Rgba.g, mix Rgba.b, mix Rgba.a⟩) ∧
    (flag bitTextured = true → flag bitGouraud = true →
      shade view p w = ⟨c.r * mix Rgba.r, c.g * mix Rgba.g, c.b * mix Rgba.b, c.a * mix Rgba.a⟩)) ∧
  (view.cfg.numerics = .exact → SlotsOk .exact p.v → rasterArea .exact p.v ≠ 0 → c.inUnit = true →
    ∀ px py, covered (weightsAt view p.v px py) = true → (shade view p (weightsAt view p.v px py)).inUnit = true)

/-- In exact arithmetic a component in 0..1 is written as its value times 255 rounded down; a component that was
sent as a byte is written as that byte (R109, R269; the scale 255 is the spec's decision D26). -/
def Obligations.ByteConversion : Prop :=
  (∀ q : Rat, 0 ≤ q → q ≤ 1 → ((byteOf .exact q).toNat : Int) = (q * 255).floor) ∧
  ∀ k : BitVec 8, byteOf .exact (componentOf .exact k) = k

/-- The bytes of a pixel (R272 to R275): RGB565, B then G then R, the packed ARGB word, least significant byte
first; none at any other depth. -/
def Obligations.PixelFormats : Prop := ∀ (n : Numerics) (c : Rgba),
  pixelBytes n 16 c = leBytes 2 (BitVec.ofNat 16
    ((byteOf n c.r).toNat / 8 * 2048 + (byteOf n c.g).toNat / 4 * 32 + (byteOf n c.b).toNat / 8)) ∧
  pixelBytes n 24 c = [byteOf n c.b, byteOf n c.g, byteOf n c.r] ∧
  pixelBytes n 32 c = [byteOf n c.b, byteOf n c.g, byteOf n c.r, byteOf n c.a] ∧
  ∀ bpp, bpp ≠ 16 → bpp ≠ 24 → bpp ≠ 32 → pixelBytes n bpp c = []

-- timer, display, construction

/-- The timer's fire (R316): not enabled unless armed (U12); else it disarms, clears the three busy flags, sets
RENDER_COMPLETE, sets the completion flag exactly when its mask bit is set, and drains. -/
def Obligations.TimerFire : Prop := ∀ (s : State) (rest : List HostEvent), s.closed = false →
  s.inbox = .timerFire :: rest →
  (s.timerArmed = false → step s = .refused .timerNotArmed) ∧
  (s.timerArmed = true → ∃ u, step s = drain u ∧
    statusBit u bitRenderRunning = false ∧ statusBit u bitRenderBusy = false ∧ statusBit u bitDmaBusy = false ∧
    statusBit u bitRenderComplete = true ∧
    StatusSameExcept [bitRenderRunning, bitRenderBusy, bitDmaBusy, bitRenderComplete] s u ∧
    (∀ i, regBit u regIntStatus i =
      (regBit s regIntStatus i || (decide (i = bitComplete) && regBit s regIntMask bitComplete))) ∧
    RegsSameExcept [regCoreStatus, regIntStatus] s u ∧ MemSame s u ∧
    u = { s with regs := u.regs, timerArmed := false, inbox := rest })

/-- RENDER_COMPLETE, once set, stays set through every step but a full reset or an `init`, and no step but a
timer fire sets it (R33, R316, R317). That nothing else clears it is the spec's decision D32. -/
def Obligations.RenderCompleteIsSticky : Prop :=
  ∀ (s t : State) (e : HostEvent) (rest : List HostEvent), s.inbox = e :: rest → step s = .next t →
  (resetsBlock s.cfg e = false → statusBit s bitRenderComplete = true → statusBit t bitRenderComplete = true) ∧
  (e ≠ .timerFire → statusBit t bitRenderComplete = true → statusBit s bitRenderComplete = true)

/-- `update_display` rebinds the display and FB, rebuilds the grid at the current tile size, and changes
nothing else; ZBUF's contents are then unspecified, and no byte of either memory changes (R320, R321). That
the polygons are kept and that the tile counts are rounded up the spec marks as derived. -/
def Obligations.UpdateDisplay : Prop :=
  ∀ (s : State) (rest : List HostEvent) (w h stride bpp : Nat) (fb : FbRef), s.closed = false →
  s.inbox = .updateDisplay w h stride bpp fb :: rest →
  Completes (step s) fun t =>
    t.tilesX = ceilDiv w s.tileSize ∧ t.tilesY = ceilDiv h s.tileSize ∧ t.tiles = gridTiles s.tileSize w h ∧
    (∀ tile ∈ t.tiles, tile.list = []) ∧
    (∀ a, vramByte t a = vramByte s a) ∧ (∀ a, hostByte t a = hostByte s a) ∧
    t = { s with
      width := w, height := h, stride := stride, bpp := bpp, fb := fb, tilesX := t.tilesX, tilesY := t.tilesY,
      tiles := t.tiles, zbuf := t.zbuf, zfill := t.zfill, zallocs := t.zallocs, inbox := rest }

/-- `init` binds the display, disarms the timer and does everything a full reset does, in a closed block too
(R324). -/
def Obligations.InitIsDisplayThenFullReset : Prop :=
  ∀ (s : State) (rest : List HostEvent) (w h stride bpp : Nat) (fb : FbRef) (v : Word),
  s.inbox = .init w h stride bpp fb :: rest → namedBit s.cfg regCoreReset v bitResetCore = true →
  Completes (step s) fun t => t.timerArmed = false ∧ t.closed = false ∧
    exec (.coreReset v) { s with
      width := w, height := h, stride := stride, bpp := bpp, fb := fb, timerArmed := false, closed := false,
      inbox := rest } = .next t

/-- The tile grid (R321): as many columns and rows as the tile size needs to reach the edges, each tile at its
place and clipped to the display, every list empty; every pixel of the display lies in exactly one tile. -/
def Obligations.GridPartitionsDisplay : Prop := ∀ ts w h : Nat, 0 < ts →
  (ceilDiv w ts : Int) = ((w : Rat) / ts).ceil ∧ (gridTiles ts w h).length = ceilDiv w ts * ceilDiv h ts ∧
  (∀ i j, i < ceilDiv w ts → j < ceilDiv h ts → (gridTiles ts w h)[j * ceilDiv w ts + i]? =
    some ⟨i * ts, j * ts, min ts (w - i * ts), min ts (h - j * ts), []⟩) ∧
  ∀ x y, x < w → y < h →
    ∃! k : Nat, ∃ tile : Tile, (gridTiles ts w h)[k]? = some tile ∧
      tile.x ≤ x ∧ x < tile.x + tile.w ∧ tile.y ≤ y ∧ y < tile.y + tile.h

/-- A step on an event completes under the premises of 93_implementation_defined.md (R345): the host's promise
about FB (U5), for an event that starts a valid DMA a source inside VRAM (U6), no fire of an unarmed timer
(U12), and a block that is not closed. -/
def Obligations.StepCompletes : Prop := ∀ (s : State) (e : HostEvent) (rest : List HostEvent),
  s.inbox = e :: rest → s.closed = false → FbCovers s → DmaSourceInside e s →
  (e = .timerFire → s.timerArmed = true) → ∃ t, step s = .next t

-- invariants

/-- Every step keeps the stores in canonical form, and ZBUF empty until a render clears it. The rules name the
stores and what they hold (R29, R30, R72, R73); the canonical form, the value an unlisted byte reads as
(notes/assumptions/4.md) and the counter of ZBUF's allocations (notes/assumptions/5.md) are the model's own
representation. -/
def Obligations.StepKeepsStoreInv : Prop := ∀ s t : State, StoreInv s → step s = .next t → StoreInv t

/-- Every step keeps the FIFO's invariant: cursors and counter in range, `wr = (rd + count) mod capacity`,
FIFO_EMPTY set exactly when nothing is queued, FIFO_FULL only at capacity (R49, R55, R195). -/
def Obligations.StepKeepsFifoInv : Prop := ∀ s t : State, FifoInv s → step s = .next t → FifoInv t

/-- Every step keeps the bounds of the polygon buffer and of the tiles: no more polygons than the buffer
holds, every reference of a tile below poly_count, as many tiles as the grid says (R27, R28, R55). -/
def Obligations.StepKeepsBinInv : Prop := ∀ s t : State, BinInv s → step s = .next t → BinInv t

/-- No sequence of accesses sets a reserved bit of REG.CORE.STATUS, stores into REG.INT.CLEAR, or leaves bit 0
of REG.CORE.RESET set (R33, R35, R47). -/
def Obligations.StepKeepsRegisterInv : Prop := ∀ s t : State, RegisterInv s → step s = .next t → RegisterInv t

/-- Every step keeps the vertex slots and the polygons made of them in their ranges, those of exact arithmetic
where that is the arithmetic (R23). -/
def Obligations.StepKeepsVertexInv : Prop := ∀ s t : State, VertexInv s → step s = .next t → VertexInv t

/-- While a render runs or a DMA is busy the timer is armed, so queued commands run when it fires (R53, R192,
R316). -/
def Obligations.StepKeepsGateInv : Prop := ∀ s t : State, GateInv s → step s = .next t → GateInv t

/-- The six invariants hold right after reset. -/
def Obligations.ResetMeetsInvariants : Prop :=
  StoreInv State.reset ∧ FifoInv State.reset ∧ BinInv State.reset ∧ RegisterInv State.reset ∧
    VertexInv State.reset ∧ GateInv State.reset
end

