-- ==== Sys2Proof/Laws/Cells.lean ====
section
/-! SUPPORT. The laws of sparse stores and byte memories: read after write, and the canonical form kept. -/

namespace Sys2Proof.Machine

variable {n : Nat} {d v : BitVec n} {m : Cells n} {a b : Nat}

@[simp] theorem cellsRead_nil : cellsRead d ([] : Cells n) a = d := rfl

theorem cellsRead_cons (c : Nat × BitVec n) :
    cellsRead d (c :: m) a = if c.1 = a then c.2 else cellsRead d m a := rfl

theorem cellsRead_insert : cellsRead d (cellsInsert a v m) b = if a = b then v else cellsRead d m b := by
  induction m with
  | nil => rfl
  | cons c m ih =>
    obtain ⟨k, w⟩ := c
    simp only [cellsInsert]
    split_ifs with h1 h2 <;> simp_all [cellsRead_cons]; intro h; omega

theorem cellsRead_filter_of_true {p : Nat × BitVec n → Bool} (h : ∀ w, p (b, w) = true) :
    cellsRead d (m.filter p) b = cellsRead d m b := by
  induction m with
  | nil => rfl
  | cons c m ih =>
    obtain ⟨k, w⟩ := c
    by_cases hk : k = b
    · subst hk; simp [h, cellsRead_cons]
    · by_cases hp : p (k, w) = true <;> simp [hp, cellsRead_cons, hk, ih]

theorem cellsRead_filter_of_false {p : Nat × BitVec n → Bool} (h : ∀ w, p (b, w) = false) :
    cellsRead d (m.filter p) b = d := by
  induction m with
  | nil => rfl
  | cons c m ih =>
    obtain ⟨k, w⟩ := c
    by_cases hk : k = b
    · subst hk; simp [h, ih]
    · by_cases hp : p (k, w) = true <;> simp [hp, cellsRead_cons, hk, ih]

/-- Read after write: the value at the key written, every other key as before. -/
theorem cellsRead_write : cellsRead d (cellsWrite d m a v) b = if a = b then v else cellsRead d m b := by
  unfold cellsWrite
  by_cases hv : v = d
  · rw [if_pos hv]
    by_cases hab : a = b
    · rw [if_pos hab, cellsRead_filter_of_false (by simp [hab]), hv]
    · rw [if_neg hab, cellsRead_filter_of_true (by simpa using fun h => hab h.symm)]
  · rw [if_neg hv, cellsRead_insert]

theorem cellsRead_clear (p : Nat → Bool) :
    cellsRead d (cellsClear p m) b = if p b then d else cellsRead d m b := by
  unfold cellsClear
  by_cases h : p b = true
  · rw [if_pos h, cellsRead_filter_of_false (by simp [h])]
  · rw [if_neg h, cellsRead_filter_of_true (by simpa using h)]

theorem cellsWf_iff : cellsWf d m = true ↔ m.Pairwise (fun x y => x.1 < y.1) ∧ ∀ c ∈ m, c.2 ≠ d := by
  simp [cellsWf]

theorem cellsWf_nil : cellsWf d ([] : Cells n) = true := by simp [cellsWf_iff]

theorem mem_cellsInsert {c : Nat × BitVec n} (h : c ∈ cellsInsert a v m) : c = (a, v) ∨ c ∈ m := by
  induction m with
  | nil => exact .inl (by simpa [cellsInsert] using h)
  | cons x m ih =>
    obtain ⟨k, w⟩ := x
    simp only [cellsInsert] at h
    split_ifs at h
    · rcases List.mem_cons.1 h with h | h
      · exact .inr (by simp [h])
      · exact (ih h).imp id (List.mem_cons_of_mem _)
    · rcases List.mem_cons.1 h with h | h
      · exact .inl h
      · exact .inr (List.mem_cons_of_mem _ h)
    · exact List.mem_cons.1 h

theorem pairwise_cellsInsert (h : m.Pairwise (fun x y => x.1 < y.1)) :
    (cellsInsert a v m).Pairwise (fun x y => x.1 < y.1) := by
  induction m with
  | nil => simp [cellsInsert]
  | cons x m ih =>
    obtain ⟨k, w⟩ := x
    rw [List.pairwise_cons] at h
    simp only [cellsInsert]
    split_ifs with h1 h2
    · refine List.pairwise_cons.2 ⟨fun c hc => ?_, ih h.2⟩
      rcases mem_cellsInsert hc with rfl | hc
      · exact h1
      · exact h.1 c hc
    · exact List.pairwise_cons.2 ⟨fun c hc => h2 ▸ h.1 c hc, h.2⟩
    · refine List.pairwise_cons.2 ⟨fun c hc => ?_, List.pairwise_cons.2 h⟩
      rcases List.mem_cons.1 hc with rfl | hc
      · show a < k; omega
      · have := h.1 c hc; simp only at this ⊢; omega

/-- A write keeps the canonical form. -/
theorem cellsWf_write (h : cellsWf d m = true) : cellsWf d (cellsWrite d m a v) = true := by
  rw [cellsWf_iff] at h ⊢
  unfold cellsWrite
  split_ifs with hv
  · exact ⟨h.1.filter _, fun c hc => h.2 c (List.mem_of_mem_filter hc)⟩
  · refine ⟨pairwise_cellsInsert h.1, fun c hc => ?_⟩
    rcases mem_cellsInsert hc with rfl | hc
    · exact hv
    · exact h.2 c hc

/-- A clear keeps the canonical form. -/
theorem cellsWf_clear (p : Nat → Bool) (h : cellsWf d m = true) : cellsWf d (cellsClear p m) = true := by
  rw [cellsWf_iff] at h ⊢
  exact ⟨h.1.filter _, fun c hc => h.2 c (List.mem_of_mem_filter hc)⟩

/-- Two stores in canonical form that read alike everywhere are the same data. -/
theorem cells_ext {m₁ m₂ : Cells n} (h₁ : cellsWf d m₁ = true) (h₂ : cellsWf d m₂ = true)
    (h : ∀ a, cellsRead d m₁ a = cellsRead d m₂ a) : m₁ = m₂ := by
  rw [cellsWf_iff] at h₁ h₂
  have low : ∀ {l : Cells n} {a : Nat}, (∀ c ∈ l, a < c.1) → cellsRead d l a = d := by
    intro l a hl
    induction l with
    | nil => rfl
    | cons c l ih =>
      have := hl c (by simp)
      rw [cellsRead_cons, if_neg (by omega), ih fun c hc => hl c (List.mem_cons_of_mem _ hc)]
  induction m₁ generalizing m₂ with
  | nil =>
    cases m₂ with
    | nil => rfl
    | cons c l =>
      have := h c.1
      rw [cellsRead_cons, if_pos rfl] at this
      exact absurd this.symm (h₂.2 c (by simp))
  | cons c l ih =>
    cases m₂ with
    | nil =>
      have := h c.1
      rw [cellsRead_cons, if_pos rfl] at this
      exact absurd this (h₁.2 c (by simp))
    | cons e k =>
      have hl := List.pairwise_cons.1 h₁.1
      have hk := List.pairwise_cons.1 h₂.1
      have key : c.1 = e.1 := by
        rcases Nat.lt_trichotomy c.1 e.1 with hlt | heq | hgt
        · have := h c.1
          rw [cellsRead_cons, if_pos rfl, cellsRead_cons, if_neg (by omega),
            low fun x hx => Nat.lt_trans hlt (hk.1 x hx)] at this
          exact absurd this (h₁.2 c (by simp))
        · exact heq
        · have := h e.1
          rw [cellsRead_cons, if_neg (by omega), low fun x hx => Nat.lt_trans hgt (hl.1 x hx),
            cellsRead_cons, if_pos rfl] at this
          exact absurd this.symm (h₂.2 e (by simp))
      have val : c.2 = e.2 := by
        have := h c.1
        rwa [cellsRead_cons, if_pos rfl, cellsRead_cons, if_pos key.symm] at this
      have tail : l = k := by
        refine ih ⟨hl.2, fun x hx => h₁.2 x (List.mem_cons_of_mem _ hx)⟩
          ⟨hk.2, fun x hx => h₂.2 x (List.mem_cons_of_mem _ hx)⟩ fun a => ?_
        by_cases ha : c.1 = a
        · subst ha; rw [low hl.1, low fun x hx => by have := hk.1 x hx; omega]
        · have := h a
          rwa [cellsRead_cons, if_neg ha, cellsRead_cons, if_neg (by omega)] at this
      rw [tail, Prod.ext key val]

-- byte memories

variable {mem : Memory} {x : Byte}

theorem memRead_memWrite : memRead (memWrite mem a x) b = if a = b then x else memRead mem b := cellsRead_write

theorem memWf_memWrite (h : Memory.wf mem = true) : Memory.wf (memWrite mem a x) = true := cellsWf_write h

/-- What a run of byte stores leaves at an address. -/
theorem memRead_memWriteBytes (bs : List Byte) :
    memRead (memWriteBytes mem a bs) b =
      if a ≤ b ∧ b < a + bs.length then bs.getD (b - a) 0#8 else memRead mem b := by
  induction bs generalizing mem a with
  | nil => rw [if_neg (by simp)]; rfl
  | cons y bs ih =>
    rw [memWriteBytes, ih, memRead_memWrite]
    rcases Nat.lt_trichotomy b a with h | h | h
    · rw [if_neg (by omega), if_neg (by omega), if_neg (by omega)]
    · subst h; simp
    · obtain ⟨k, rfl⟩ : ∃ k, b = a + 1 + k := ⟨b - (a + 1), by omega⟩
      have e1 : a + 1 + k - a = k + 1 := by omega
      have e2 : a + 1 + k - (a + 1) = k := by omega
      by_cases hk : k < bs.length
      · rw [if_pos (by omega), if_pos (by simp; omega), e1, e2]; simp
      · rw [if_neg (by omega), if_neg (by omega), if_neg (by simp; omega)]

theorem memWf_memWriteBytes (bs : List Byte) (h : Memory.wf mem = true) :
    Memory.wf (memWriteBytes mem a bs) = true := by
  induction bs generalizing mem a with
  | nil => exact h
  | cons y bs ih => exact ih (memWf_memWrite h)

@[simp] theorem length_leBytes {w k : Nat} (u : BitVec w) : (leBytes k u).length = k := by simp [leBytes]

end Sys2Proof.Machine
end

