-- ==== Sys2Proof/Laws/Placement.lean ====
section
/-! SUPPORT. The bindings of banks, registers and bits are one to one, put each home where its table says, and
with the default tables move nothing; exact arithmetic is that of the rationals. -/

namespace Sys2Proof.Machine

section
variable {α : Type} [DecidableEq α] {es table : List (α × α)} {a b x y : α}

@[simp] theorem exchange_self : exchange a a x = x := by
  unfold exchange; split_ifs <;> simp_all

@[simp] theorem exchange_exchange : exchange a b (exchange a b x) = x := by
  unfold exchange; split_ifs <;> simp_all

@[simp] theorem exchangeBack_exchangeAll : exchangeBack es (exchangeAll es x) = x := by
  induction es generalizing x with
  | nil => rfl
  | cons e es ih =>
    show exchange e.1 e.2 (exchangeBack es (exchangeAll es (exchange e.1 e.2 x))) = x
    rw [ih, exchange_exchange]

@[simp] theorem exchangeAll_exchangeBack : exchangeAll es (exchangeBack es x) = x := by
  induction es generalizing x with
  | nil => rfl
  | cons e es ih =>
    show exchangeAll es (exchange e.1 e.2 (exchange e.1 e.2 (exchangeBack es x))) = x
    rw [exchange_exchange, ih]

@[simp] theorem homeOf_placeOf : homeOf table (placeOf table x) = x := exchangeBack_exchangeAll

@[simp] theorem placeOf_homeOf : placeOf table (homeOf table x) = x := exchangeAll_exchangeBack

/-- No two homes stand at one place, whatever the table. -/
theorem placeOf_inj : placeOf table x = placeOf table y ↔ x = y :=
  ⟨fun h => by rw [← homeOf_placeOf (table := table) (x := x), h, homeOf_placeOf], congrArg _⟩

theorem exchangeAll_append : exchangeAll (es ++ [(a, b)]) x = exchange a b (exchangeAll es x) := by
  simp [exchangeAll]

/-- A property of the ends of every row is kept by the binding. -/
theorem placeOf_induct {P : α → Prop} (ht : ∀ e ∈ table, P e.1 ∧ P e.2) (hx : P x) : P (placeOf table x) := by
  have step : ∀ {u v w : α}, P u → P v → P w → P (exchange u v w) := by
    intro u v w hu hv hw; unfold exchange; split_ifs <;> assumption
  have all : ∀ (l : List (α × α)) (w : α), (∀ e ∈ l, P e.1 ∧ P e.2) → P w → P (exchangeAll l w) := by
    intro l
    induction l with
    | nil => intro w _ h; exact h
    | cons e l ih =>
      intro w hl hw
      exact ih _ (fun e' he' => hl e' (List.mem_cons_of_mem _ he')) (step (hl e (by simp)).1 (hl e (by simp)).2 hw)
  have steps : ∀ (t done : List (α × α)), (∀ e ∈ t, P e.1 ∧ P e.2) → (∀ e ∈ done, P e.1 ∧ P e.2) →
      ∀ e ∈ bindingSteps done t, P e.1 ∧ P e.2 := by
    intro t
    induction t with
    | nil => intro done _ h; exact h
    | cons r t ih =>
      intro done h1 h2
      refine ih _ (fun e he => h1 e (List.mem_cons_of_mem _ he)) fun e he => ?_
      rcases List.mem_append.1 he with h | h
      · exact h2 e h
      · rw [List.mem_singleton.1 h]
        exact ⟨all done _ h2 (h1 r (by simp)).1, (h1 r (by simp)).2⟩
  exact all _ _ (steps table [] ht (by simp)) hx

/-- With distinct homes and distinct places every home stands where its row says. -/
theorem placeOf_of_mem (h1 : (table.map Prod.fst).Nodup) (h2 : (table.map Prod.snd).Nodup) (h : (a, b) ∈ table) :
    placeOf table a = b := by
  suffices key : ∀ (t done : List (α × α)) (bound : List (α × α)),
      (∀ e ∈ bound, exchangeAll done e.1 = e.2) → ((bound ++ t).map Prod.fst).Nodup →
      ((bound ++ t).map Prod.snd).Nodup → ∀ e ∈ bound ++ t, exchangeAll (bindingSteps done t) e.1 = e.2 from
    key table [] [] (by simp) (by simpa using h1) (by simpa using h2) (a, b) (by simpa using h)
  intro t
  induction t with
  | nil => intro done bound hb _ _ e he; exact hb e (by simpa using he)
  | cons r t ih =>
    intro done bound hb n1 n2 e he
    have e1 : bound ++ r :: t = (bound ++ [r]) ++ t := by simp
    rw [e1] at n1 n2 he
    refine ih _ (bound ++ [r]) ?_ n1 n2 e he
    intro e' he'
    rw [exchangeAll_append]
    have m1 := (List.nodup_append.1 (by simpa using n1 : ((bound ++ [r]).map Prod.fst ++ t.map Prod.fst).Nodup)).1
    have m2 := (List.nodup_append.1 (by simpa using n2 : ((bound ++ [r]).map Prod.snd ++ t.map Prod.snd).Nodup)).1
    rw [List.map_append, List.nodup_append] at m1 m2
    rcases List.mem_append.1 he' with h | h
    · have d1 : e'.1 ≠ r.1 := m1.2.2 _ (List.mem_map_of_mem h) _ (by simp)
      have d2 : e'.2 ≠ r.2 := m2.2.2 _ (List.mem_map_of_mem h) _ (by simp)
      have hne : exchangeAll done e'.1 ≠ exchangeAll done r.1 := fun hc => d1 (by
        rw [← exchangeBack_exchangeAll (es := done) (x := e'.1), hc, exchangeBack_exchangeAll])
      rw [exchange, if_neg hne, if_neg (by rw [hb e' h]; exact d2), hb e' h]
    · obtain rfl := List.mem_singleton.1 h
      rw [exchange, if_pos rfl]

/-- A table whose rows all keep their home moves nothing. -/
theorem placeOf_self (h : ∀ e ∈ table, e.1 = e.2) : placeOf table x = x := by
  have all : ∀ (l : List (α × α)) (w : α), (∀ e ∈ l, e.1 = e.2) → exchangeAll l w = w := by
    intro l
    induction l with
    | nil => intro w _; rfl
    | cons e l ih =>
      intro w hl
      show exchangeAll l (exchange e.1 e.2 w) = w
      rw [hl e (by simp), exchange_self]
      exact ih w fun e' he' => hl e' (List.mem_cons_of_mem _ he')
  have steps : ∀ (t done : List (α × α)), (∀ e ∈ t, e.1 = e.2) → (∀ e ∈ done, e.1 = e.2) →
      ∀ e ∈ bindingSteps done t, e.1 = e.2 := by
    intro t
    induction t with
    | nil => intro done _ h; exact h
    | cons r t ih =>
      intro done h1 h2
      refine ih _ (fun e he => h1 e (List.mem_cons_of_mem _ he)) fun e he => ?_
      rcases List.mem_append.1 he with h | h
      · exact h2 e h
      · rw [List.mem_singleton.1 h]
        show exchangeAll done r.1 = r.2
        rw [all done _ h2, h1 r (by simp)]
  exact all _ _ (steps table [] h (by simp))

theorem homeOf_self (h : ∀ e ∈ table, e.1 = e.2) : homeOf table x = x := by
  rw [← placeOf_inj (table := table), placeOf_homeOf, placeOf_self h]

end

-- registers

variable {p : Params} {r q : RegName} {i j : Nat}

@[simp] theorem placeReg_bank : (placeReg p r).bank = placeOf (bankTable p) r.bank := by simp only [placeReg]

@[simp] theorem placeReg_word : (placeReg p r).word = placeOf (offsetTable p r.bank) r.word := by
  simp only [placeReg]

@[simp] theorem homeReg_placeReg : homeReg p (placeReg p r) = r := by simp [homeReg, placeReg]

@[simp] theorem placeReg_homeReg : placeReg p (homeReg p r) = r := by simp [homeReg, placeReg]

/-- An aligned address of banks 0 to 7 is put together from its fields. -/
theorem addr_of_fields {a : RegAddr} (hc : a.extractLsb' 0 2 = 0#2 ∧ a.getLsbD 15 = false) :
    (a.extractLsb' 16 4 ++ 0#1 ++ a.extractLsb' 12 3 ++ a.extractLsb' 2 10 ++ 0#2 : BitVec (4 + 1 + 3 + 10 + 2)) = a := by
  apply BitVec.eq_of_getLsbD_eq
  intro i hi
  simp only [BitVec.getLsbD_extractLsb', BitVec.getLsbD_append, BitVec.getLsbD_zero]
  have h0 : ∀ k, k < 2 → a.getLsbD k = false := by
    intro k hk
    have := congrArg (fun v => BitVec.getLsbD v k) hc.1
    simpa [hk] using this
  split_ifs
  · exact (h0 i (by omega)).symm
  · rw [decide_eq_true (by omega : i - 2 < 10), Bool.true_and]; congr 1; omega
  · rw [decide_eq_true (by omega : i - 2 - 10 < 3), Bool.true_and]; congr 1; omega
  · rw [show i = 15 by omega, hc.2]
  · rw [decide_eq_true (by omega : i - 2 - 10 - 3 - 1 < 4), Bool.true_and]; congr 1; omega

/-- An address moved nowhere. -/
theorem moveAddr_self {f : RegName → RegName} (h : ∀ r, f r = r) (a : RegAddr) : moveAddr f a = a := by
  unfold moveAddr
  split_ifs with hc
  · simp only [h]; exact addr_of_fields hc
  · rfl

/-- An address moved twice. -/
theorem moveAddr_moveAddr {f g : RegName → RegName} (h : ∀ r, g (f r) = r) (a : RegAddr) :
    moveAddr g (moveAddr f a) = a := by
  unfold moveAddr
  by_cases hc : a.extractLsb' 0 2 = 0#2 ∧ a.getLsbD 15 = false
  · rw [if_pos hc]
    generalize hq : f ⟨a.extractLsb' 12 3, a.extractLsb' 2 10⟩ = q
    have hg : g q = ⟨a.extractLsb' 12 3, a.extractLsb' 2 10⟩ := by rw [← hq, h]
    have e0 : (a.extractLsb' 16 4 ++ 0#1 ++ q.bank ++ q.word ++ 0#2 : BitVec (4 + 1 + 3 + 10 + 2)).extractLsb' 0 2
        = 0#2 := by
      apply BitVec.eq_of_getLsbD_eq; intro i hi
      simp only [BitVec.getLsbD_extractLsb', BitVec.getLsbD_append, hi, decide_true, Bool.true_and]
      rw [if_pos (by omega)]; simp
    have e1 : (a.extractLsb' 16 4 ++ 0#1 ++ q.bank ++ q.word ++ 0#2 : BitVec (4 + 1 + 3 + 10 + 2)).getLsbD 15
        = false := by
      simp only [BitVec.getLsbD_append]
      rw [if_neg (by omega), if_neg (by omega), if_neg (by omega), if_pos (by omega)]; simp
    have e2 : (a.extractLsb' 16 4 ++ 0#1 ++ q.bank ++ q.word ++ 0#2 : BitVec (4 + 1 + 3 + 10 + 2)).extractLsb' 12 3
        = q.bank := by
      apply BitVec.eq_of_getLsbD_eq; intro i hi
      simp only [BitVec.getLsbD_extractLsb', BitVec.getLsbD_append, hi, decide_true, Bool.true_and]
      rw [if_neg (by omega), if_neg (by omega), if_pos (by omega)]
      congr 1; omega
    have e3 : (a.extractLsb' 16 4 ++ 0#1 ++ q.bank ++ q.word ++ 0#2 : BitVec (4 + 1 + 3 + 10 + 2)).extractLsb' 2 10
        = q.word := by
      apply BitVec.eq_of_getLsbD_eq; intro i hi
      simp only [BitVec.getLsbD_extractLsb', BitVec.getLsbD_append, hi, decide_true, Bool.true_and]
      rw [if_neg (by omega), if_pos (by omega)]
      congr 1; omega
    have e4 : (a.extractLsb' 16 4 ++ 0#1 ++ q.bank ++ q.word ++ 0#2 : BitVec (4 + 1 + 3 + 10 + 2)).extractLsb' 16 4
        = a.extractLsb' 16 4 := by
      apply BitVec.eq_of_getLsbD_eq; intro i hi
      simp only [BitVec.getLsbD_extractLsb', BitVec.getLsbD_append, hi, decide_true, Bool.true_and]
      rw [if_neg (by omega), if_neg (by omega), if_neg (by omega), if_neg (by omega),
        decide_eq_true (by omega : 16 + i - 2 - 10 - 3 - 1 < 4), Bool.true_and]
      congr 1; omega
    simp only
    rw [if_pos ⟨e0, e1⟩, e2, e3, e4, hg]
    exact addr_of_fields hc
  · rw [if_neg hc, if_neg hc]

@[simp] theorem homeAddr_placeAddr (p : Params) (a : RegAddr) : homeAddr p (placeAddr p a) = a :=
  moveAddr_moveAddr (fun _ => homeReg_placeReg) a

@[simp] theorem placeAddr_homeAddr (p : Params) (a : RegAddr) : placeAddr p (homeAddr p a) = a :=
  moveAddr_moveAddr (fun _ => placeReg_homeReg) a

/-- With the numbers of R31 a register stands at its home. -/
theorem placeReg_default (h1 : p.bankId = {}) (h2 : p.offset = {}) : placeReg p r = r := by
  have e1 : ∀ b, ∀ e ∈ offsetTable p b, e.1 = e.2 := by
    intro b e he
    unfold offsetTable at he
    rw [h2] at he
    split_ifs at he <;> fin_cases he <;> rfl
  have e2 : ∀ e ∈ bankTable p, e.1 = e.2 := by
    intro e he
    unfold bankTable at he
    rw [h1] at he
    fin_cases he <;> rfl
  simp only [placeReg, placeOf_self (e1 _), placeOf_self e2]

theorem homeReg_default (h1 : p.bankId = {}) (h2 : p.offset = {}) : homeReg p r = r := by
  rw [← placeReg_default (r := homeReg _ _) h1 h2, placeReg_homeReg]

/-- With the numbers of R31 no address moves. -/
theorem homeAddr_default (h1 : p.bankId = {}) (h2 : p.offset = {}) (a : RegAddr) : homeAddr p a = a :=
  moveAddr_self (fun _ => homeReg_default h1 h2) a

theorem placeAddr_default (h1 : p.bankId = {}) (h2 : p.offset = {}) (a : RegAddr) : placeAddr p a = a :=
  moveAddr_self (fun _ => placeReg_default h1 h2) a

-- bits

/-- No two bits of a register stand at one position. -/
@[simp] theorem bitPlace_inj : bitPlace p r i = bitPlace p r j ↔ i = j := placeOf_inj

/-- The positions of a register's bits are those of a word. -/
theorem bitPlace_lt (h : i < 32) : bitPlace p r i < 32 := by
  refine placeOf_induct (P := (· < 32)) ?_ h
  have hb : ∀ x : BitVec 5, x.toNat < 32 := fun x => x.isLt
  unfold bitTable
  split_ifs <;>
    simp [hb, bitFifoEmpty, bitFifoFull, bitRenderBusy, bitRenderRunning, bitDmaBusy, bitRenderComplete, bitVblank,
      bitResetCore, bitResetGeometry, bitResetTexture, bitResetRender, bitResetDma, bitCullCcw, bitCullCw, bitZtest,
      bitGouraud, bitTextured, bitStart, bitReset, bitDmaActive, bitDmaDone, bitComplete]

/-- With the positions of R33 to R47 a bit stands at its number. -/
theorem bitPlace_default (h : p.bits = {}) : bitPlace p r i = i := by
  refine placeOf_self ?_
  intro e he
  unfold bitTable at he
  rw [h] at he
  split_ifs at he <;> fin_cases he <;> rfl

-- arithmetic

variable {a b : Rat}

@[simp] theorem numAdd_exact : numAdd .exact a b = a + b := rfl
@[simp] theorem numSub_exact : numSub .exact a b = a - b := rfl
@[simp] theorem numMul_exact : numMul .exact a b = a * b := rfl
@[simp] theorem numDiv_exact : numDiv .exact a b = a / b := rfl

/-- An integer that fits its field is stored as it is, in every arithmetic (R266, R269). -/
theorem narrow_toNat (n : Numerics) {width : Nat} {z : Int} (h0 : 0 ≤ z) (h1 : z < 2 ^ width) :
    ((narrow n width z).toNat : Int) = z := by
  rw [narrow, if_pos ⟨h0, h1⟩, BitVec.toNat_ofInt]
  norm_cast at *
  rw [Int.emod_eq_of_lt h0 (by exact_mod_cast h1), Int.toNat_of_nonneg h0]

/-- An integer that does not fit becomes a free value (notes/assumptions/20.md). -/
theorem narrow_free (n : Numerics) {width : Nat} {z : Int} (h : ¬(0 ≤ z ∧ z < 2 ^ width)) :
    narrow n width z = Config.freeNarrow n width z := if_neg h

end Sys2Proof.Machine
end

