-- ==== Sys2Proof/Laws/State.lean ====
section
/-! SUPPORT. One lemma per field per update of the state, true by rfl. -/

namespace Sys2Proof.Machine

variable (s : State)

-- setReg
@[simp] theorem setReg_cfg (r : RegName) (v : Word) : (setReg r v s).cfg = s.cfg := rfl
@[simp] theorem setReg_regs (r : RegName) (v : Word) : (setReg r v s).regs = cellsWrite regDefault s.regs r.key v := rfl
@[simp] theorem setReg_slots (r : RegName) (v : Word) : (setReg r v s).slots = s.slots := rfl
@[simp] theorem setReg_vcount (r : RegName) (v : Word) : (setReg r v s).vcount = s.vcount := rfl
@[simp] theorem setReg_curFlags (r : RegName) (v : Word) : (setReg r v s).curFlags = s.curFlags := rfl
@[simp] theorem setReg_texAddr (r : RegName) (v : Word) : (setReg r v s).texAddr = s.texAddr := rfl
@[simp] theorem setReg_texControl (r : RegName) (v : Word) : (setReg r v s).texControl = s.texControl := rfl
@[simp] theorem setReg_texFormatBits (r : RegName) (v : Word) : (setReg r v s).texFormatBits = s.texFormatBits := rfl
@[simp] theorem setReg_texFilter (r : RegName) (v : Word) : (setReg r v s).texFilter = s.texFilter := rfl
@[simp] theorem setReg_texDesc (r : RegName) (v : Word) : (setReg r v s).texDesc = s.texDesc := rfl
@[simp] theorem setReg_polys (r : RegName) (v : Word) : (setReg r v s).polys = s.polys := rfl
@[simp] theorem setReg_tileSize (r : RegName) (v : Word) : (setReg r v s).tileSize = s.tileSize := rfl
@[simp] theorem setReg_tilesX (r : RegName) (v : Word) : (setReg r v s).tilesX = s.tilesX := rfl
@[simp] theorem setReg_tilesY (r : RegName) (v : Word) : (setReg r v s).tilesY = s.tilesY := rfl
@[simp] theorem setReg_tiles (r : RegName) (v : Word) : (setReg r v s).tiles = s.tiles := rfl
@[simp] theorem setReg_zbuf (r : RegName) (v : Word) : (setReg r v s).zbuf = s.zbuf := rfl
@[simp] theorem setReg_zfill (r : RegName) (v : Word) : (setReg r v s).zfill = s.zfill := rfl
@[simp] theorem setReg_zallocs (r : RegName) (v : Word) : (setReg r v s).zallocs = s.zallocs := rfl
@[simp] theorem setReg_dmaOverlap (r : RegName) (v : Word) : (setReg r v s).dmaOverlap = s.dmaOverlap := rfl
@[simp] theorem setReg_fifo (r : RegName) (v : Word) : (setReg r v s).fifo = s.fifo := rfl
@[simp] theorem setReg_width (r : RegName) (v : Word) : (setReg r v s).width = s.width := rfl
@[simp] theorem setReg_height (r : RegName) (v : Word) : (setReg r v s).height = s.height := rfl
@[simp] theorem setReg_stride (r : RegName) (v : Word) : (setReg r v s).stride = s.stride := rfl
@[simp] theorem setReg_bpp (r : RegName) (v : Word) : (setReg r v s).bpp = s.bpp := rfl
@[simp] theorem setReg_fb (r : RegName) (v : Word) : (setReg r v s).fb = s.fb := rfl
@[simp] theorem setReg_renderControl (r : RegName) (v : Word) : (setReg r v s).renderControl = s.renderControl := rfl
@[simp] theorem setReg_renderZbuffer (r : RegName) (v : Word) : (setReg r v s).renderZbuffer = s.renderZbuffer := rfl
@[simp] theorem setReg_renderBlend (r : RegName) (v : Word) : (setReg r v s).renderBlend = s.renderBlend := rfl
@[simp] theorem setReg_dmaControl (r : RegName) (v : Word) : (setReg r v s).dmaControl = s.dmaControl := rfl
@[simp] theorem setReg_dmaSrc (r : RegName) (v : Word) : (setReg r v s).dmaSrc = s.dmaSrc := rfl
@[simp] theorem setReg_dmaDest (r : RegName) (v : Word) : (setReg r v s).dmaDest = s.dmaDest := rfl
@[simp] theorem setReg_dmaCount (r : RegName) (v : Word) : (setReg r v s).dmaCount = s.dmaCount := rfl
@[simp] theorem setReg_timerArmed (r : RegName) (v : Word) : (setReg r v s).timerArmed = s.timerArmed := rfl
@[simp] theorem setReg_hostMem (r : RegName) (v : Word) : (setReg r v s).hostMem = s.hostMem := rfl
@[simp] theorem setReg_vram (r : RegName) (v : Word) : (setReg r v s).vram = s.vram := rfl
@[simp] theorem setReg_displayStart (r : RegName) (v : Word) : (setReg r v s).displayStart = s.displayStart := rfl
@[simp] theorem setReg_crtVblank (r : RegName) (v : Word) : (setReg r v s).crtVblank = s.crtVblank := rfl
@[simp] theorem setReg_closed (r : RegName) (v : Word) : (setReg r v s).closed = s.closed := rfl
@[simp] theorem setReg_inbox (r : RegName) (v : Word) : (setReg r v s).inbox = s.inbox := rfl
@[simp] theorem setReg_out (r : RegName) (v : Word) : (setReg r v s).out = s.out := rfl

-- clearBank
@[simp] theorem clearBank_cfg (b : BitVec 3) : (clearBank b s).cfg = s.cfg := rfl
@[simp] theorem clearBank_regs (b : BitVec 3) : (clearBank b s).regs = cellsClear (fun k => k / 1024 == b.toNat) s.regs := rfl
@[simp] theorem clearBank_slots (b : BitVec 3) : (clearBank b s).slots = s.slots := rfl
@[simp] theorem clearBank_vcount (b : BitVec 3) : (clearBank b s).vcount = s.vcount := rfl
@[simp] theorem clearBank_curFlags (b : BitVec 3) : (clearBank b s).curFlags = s.curFlags := rfl
@[simp] theorem clearBank_texAddr (b : BitVec 3) : (clearBank b s).texAddr = s.texAddr := rfl
@[simp] theorem clearBank_texControl (b : BitVec 3) : (clearBank b s).texControl = s.texControl := rfl
@[simp] theorem clearBank_texFormatBits (b : BitVec 3) : (clearBank b s).texFormatBits = s.texFormatBits := rfl
@[simp] theorem clearBank_texFilter (b : BitVec 3) : (clearBank b s).texFilter = s.texFilter := rfl
@[simp] theorem clearBank_texDesc (b : BitVec 3) : (clearBank b s).texDesc = s.texDesc := rfl
@[simp] theorem clearBank_polys (b : BitVec 3) : (clearBank b s).polys = s.polys := rfl
@[simp] theorem clearBank_tileSize (b : BitVec 3) : (clearBank b s).tileSize = s.tileSize := rfl
@[simp] theorem clearBank_tilesX (b : BitVec 3) : (clearBank b s).tilesX = s.tilesX := rfl
@[simp] theorem clearBank_tilesY (b : BitVec 3) : (clearBank b s).tilesY = s.tilesY := rfl
@[simp] theorem clearBank_tiles (b : BitVec 3) : (clearBank b s).tiles = s.tiles := rfl
@[simp] theorem clearBank_zbuf (b : BitVec 3) : (clearBank b s).zbuf = s.zbuf := rfl
@[simp] theorem clearBank_zfill (b : BitVec 3) : (clearBank b s).zfill = s.zfill := rfl
@[simp] theorem clearBank_zallocs (b : BitVec 3) : (clearBank b s).zallocs = s.zallocs := rfl
@[simp] theorem clearBank_dmaOverlap (b : BitVec 3) : (clearBank b s).dmaOverlap = s.dmaOverlap := rfl
@[simp] theorem clearBank_fifo (b : BitVec 3) : (clearBank b s).fifo = s.fifo := rfl
@[simp] theorem clearBank_width (b : BitVec 3) : (clearBank b s).width = s.width := rfl
@[simp] theorem clearBank_height (b : BitVec 3) : (clearBank b s).height = s.height := rfl
@[simp] theorem clearBank_stride (b : BitVec 3) : (clearBank b s).stride = s.stride := rfl
@[simp] theorem clearBank_bpp (b : BitVec 3) : (clearBank b s).bpp = s.bpp := rfl
@[simp] theorem clearBank_fb (b : BitVec 3) : (clearBank b s).fb = s.fb := rfl
@[simp] theorem clearBank_renderControl (b : BitVec 3) : (clearBank b s).renderControl = s.renderControl := rfl
@[simp] theorem clearBank_renderZbuffer (b : BitVec 3) : (clearBank b s).renderZbuffer = s.renderZbuffer := rfl
@[simp] theorem clearBank_renderBlend (b : BitVec 3) : (clearBank b s).renderBlend = s.renderBlend := rfl
@[simp] theorem clearBank_dmaControl (b : BitVec 3) : (clearBank b s).dmaControl = s.dmaControl := rfl
@[simp] theorem clearBank_dmaSrc (b : BitVec 3) : (clearBank b s).dmaSrc = s.dmaSrc := rfl
@[simp] theorem clearBank_dmaDest (b : BitVec 3) : (clearBank b s).dmaDest = s.dmaDest := rfl
@[simp] theorem clearBank_dmaCount (b : BitVec 3) : (clearBank b s).dmaCount = s.dmaCount := rfl
@[simp] theorem clearBank_timerArmed (b : BitVec 3) : (clearBank b s).timerArmed = s.timerArmed := rfl
@[simp] theorem clearBank_hostMem (b : BitVec 3) : (clearBank b s).hostMem = s.hostMem := rfl
@[simp] theorem clearBank_vram (b : BitVec 3) : (clearBank b s).vram = s.vram := rfl
@[simp] theorem clearBank_displayStart (b : BitVec 3) : (clearBank b s).displayStart = s.displayStart := rfl
@[simp] theorem clearBank_crtVblank (b : BitVec 3) : (clearBank b s).crtVblank = s.crtVblank := rfl
@[simp] theorem clearBank_closed (b : BitVec 3) : (clearBank b s).closed = s.closed := rfl
@[simp] theorem clearBank_inbox (b : BitVec 3) : (clearBank b s).inbox = s.inbox := rfl
@[simp] theorem clearBank_out (b : BitVec 3) : (clearBank b s).out = s.out := rfl

-- emit
@[simp] theorem emit_cfg (e : PortEvent) : (emit e s).cfg = s.cfg := rfl
@[simp] theorem emit_regs (e : PortEvent) : (emit e s).regs = s.regs := rfl
@[simp] theorem emit_slots (e : PortEvent) : (emit e s).slots = s.slots := rfl
@[simp] theorem emit_vcount (e : PortEvent) : (emit e s).vcount = s.vcount := rfl
@[simp] theorem emit_curFlags (e : PortEvent) : (emit e s).curFlags = s.curFlags := rfl
@[simp] theorem emit_texAddr (e : PortEvent) : (emit e s).texAddr = s.texAddr := rfl
@[simp] theorem emit_texControl (e : PortEvent) : (emit e s).texControl = s.texControl := rfl
@[simp] theorem emit_texFormatBits (e : PortEvent) : (emit e s).texFormatBits = s.texFormatBits := rfl
@[simp] theorem emit_texFilter (e : PortEvent) : (emit e s).texFilter = s.texFilter := rfl
@[simp] theorem emit_texDesc (e : PortEvent) : (emit e s).texDesc = s.texDesc := rfl
@[simp] theorem emit_polys (e : PortEvent) : (emit e s).polys = s.polys := rfl
@[simp] theorem emit_tileSize (e : PortEvent) : (emit e s).tileSize = s.tileSize := rfl
@[simp] theorem emit_tilesX (e : PortEvent) : (emit e s).tilesX = s.tilesX := rfl
@[simp] theorem emit_tilesY (e : PortEvent) : (emit e s).tilesY = s.tilesY := rfl
@[simp] theorem emit_tiles (e : PortEvent) : (emit e s).tiles = s.tiles := rfl
@[simp] theorem emit_zbuf (e : PortEvent) : (emit e s).zbuf = s.zbuf := rfl
@[simp] theorem emit_zfill (e : PortEvent) : (emit e s).zfill = s.zfill := rfl
@[simp] theorem emit_zallocs (e : PortEvent) : (emit e s).zallocs = s.zallocs := rfl
@[simp] theorem emit_dmaOverlap (e : PortEvent) : (emit e s).dmaOverlap = s.dmaOverlap := rfl
@[simp] theorem emit_fifo (e : PortEvent) : (emit e s).fifo = s.fifo := rfl
@[simp] theorem emit_width (e : PortEvent) : (emit e s).width = s.width := rfl
@[simp] theorem emit_height (e : PortEvent) : (emit e s).height = s.height := rfl
@[simp] theorem emit_stride (e : PortEvent) : (emit e s).stride = s.stride := rfl
@[simp] theorem emit_bpp (e : PortEvent) : (emit e s).bpp = s.bpp := rfl
@[simp] theorem emit_fb (e : PortEvent) : (emit e s).fb = s.fb := rfl
@[simp] theorem emit_renderControl (e : PortEvent) : (emit e s).renderControl = s.renderControl := rfl
@[simp] theorem emit_renderZbuffer (e : PortEvent) : (emit e s).renderZbuffer = s.renderZbuffer := rfl
@[simp] theorem emit_renderBlend (e : PortEvent) : (emit e s).renderBlend = s.renderBlend := rfl
@[simp] theorem emit_dmaControl (e : PortEvent) : (emit e s).dmaControl = s.dmaControl := rfl
@[simp] theorem emit_dmaSrc (e : PortEvent) : (emit e s).dmaSrc = s.dmaSrc := rfl
@[simp] theorem emit_dmaDest (e : PortEvent) : (emit e s).dmaDest = s.dmaDest := rfl
@[simp] theorem emit_dmaCount (e : PortEvent) : (emit e s).dmaCount = s.dmaCount := rfl
@[simp] theorem emit_timerArmed (e : PortEvent) : (emit e s).timerArmed = s.timerArmed := rfl
@[simp] theorem emit_hostMem (e : PortEvent) : (emit e s).hostMem = s.hostMem := rfl
@[simp] theorem emit_vram (e : PortEvent) : (emit e s).vram = s.vram := rfl
@[simp] theorem emit_displayStart (e : PortEvent) : (emit e s).displayStart = s.displayStart := rfl
@[simp] theorem emit_crtVblank (e : PortEvent) : (emit e s).crtVblank = s.crtVblank := rfl
@[simp] theorem emit_closed (e : PortEvent) : (emit e s).closed = s.closed := rfl
@[simp] theorem emit_inbox (e : PortEvent) : (emit e s).inbox = s.inbox := rfl
@[simp] theorem emit_out (e : PortEvent) : (emit e s).out = e :: s.out := rfl

-- diag
@[simp] theorem diag_cfg (d : Diag) : (diag d s).cfg = s.cfg := rfl
@[simp] theorem diag_regs (d : Diag) : (diag d s).regs = s.regs := rfl
@[simp] theorem diag_slots (d : Diag) : (diag d s).slots = s.slots := rfl
@[simp] theorem diag_vcount (d : Diag) : (diag d s).vcount = s.vcount := rfl
@[simp] theorem diag_curFlags (d : Diag) : (diag d s).curFlags = s.curFlags := rfl
@[simp] theorem diag_texAddr (d : Diag) : (diag d s).texAddr = s.texAddr := rfl
@[simp] theorem diag_texControl (d : Diag) : (diag d s).texControl = s.texControl := rfl
@[simp] theorem diag_texFormatBits (d : Diag) : (diag d s).texFormatBits = s.texFormatBits := rfl
@[simp] theorem diag_texFilter (d : Diag) : (diag d s).texFilter = s.texFilter := rfl
@[simp] theorem diag_texDesc (d : Diag) : (diag d s).texDesc = s.texDesc := rfl
@[simp] theorem diag_polys (d : Diag) : (diag d s).polys = s.polys := rfl
@[simp] theorem diag_tileSize (d : Diag) : (diag d s).tileSize = s.tileSize := rfl
@[simp] theorem diag_tilesX (d : Diag) : (diag d s).tilesX = s.tilesX := rfl
@[simp] theorem diag_tilesY (d : Diag) : (diag d s).tilesY = s.tilesY := rfl
@[simp] theorem diag_tiles (d : Diag) : (diag d s).tiles = s.tiles := rfl
@[simp] theorem diag_zbuf (d : Diag) : (diag d s).zbuf = s.zbuf := rfl
@[simp] theorem diag_zfill (d : Diag) : (diag d s).zfill = s.zfill := rfl
@[simp] theorem diag_zallocs (d : Diag) : (diag d s).zallocs = s.zallocs := rfl
@[simp] theorem diag_dmaOverlap (d : Diag) : (diag d s).dmaOverlap = s.dmaOverlap := rfl
@[simp] theorem diag_fifo (d : Diag) : (diag d s).fifo = s.fifo := rfl
@[simp] theorem diag_width (d : Diag) : (diag d s).width = s.width := rfl
@[simp] theorem diag_height (d : Diag) : (diag d s).height = s.height := rfl
@[simp] theorem diag_stride (d : Diag) : (diag d s).stride = s.stride := rfl
@[simp] theorem diag_bpp (d : Diag) : (diag d s).bpp = s.bpp := rfl
@[simp] theorem diag_fb (d : Diag) : (diag d s).fb = s.fb := rfl
@[simp] theorem diag_renderControl (d : Diag) : (diag d s).renderControl = s.renderControl := rfl
@[simp] theorem diag_renderZbuffer (d : Diag) : (diag d s).renderZbuffer = s.renderZbuffer := rfl
@[simp] theorem diag_renderBlend (d : Diag) : (diag d s).renderBlend = s.renderBlend := rfl
@[simp] theorem diag_dmaControl (d : Diag) : (diag d s).dmaControl = s.dmaControl := rfl
@[simp] theorem diag_dmaSrc (d : Diag) : (diag d s).dmaSrc = s.dmaSrc := rfl
@[simp] theorem diag_dmaDest (d : Diag) : (diag d s).dmaDest = s.dmaDest := rfl
@[simp] theorem diag_dmaCount (d : Diag) : (diag d s).dmaCount = s.dmaCount := rfl
@[simp] theorem diag_timerArmed (d : Diag) : (diag d s).timerArmed = s.timerArmed := rfl
@[simp] theorem diag_hostMem (d : Diag) : (diag d s).hostMem = s.hostMem := rfl
@[simp] theorem diag_vram (d : Diag) : (diag d s).vram = s.vram := rfl
@[simp] theorem diag_displayStart (d : Diag) : (diag d s).displayStart = s.displayStart := rfl
@[simp] theorem diag_crtVblank (d : Diag) : (diag d s).crtVblank = s.crtVblank := rfl
@[simp] theorem diag_closed (d : Diag) : (diag d s).closed = s.closed := rfl
@[simp] theorem diag_inbox (d : Diag) : (diag d s).inbox = s.inbox := rfl
@[simp] theorem diag_out (d : Diag) : (diag d s).out = .diag d :: s.out := rfl

-- returnData
@[simp] theorem returnData_cfg (v : Word) : (returnData v s).cfg = s.cfg := rfl
@[simp] theorem returnData_regs (v : Word) : (returnData v s).regs = s.regs := rfl
@[simp] theorem returnData_slots (v : Word) : (returnData v s).slots = s.slots := rfl
@[simp] theorem returnData_vcount (v : Word) : (returnData v s).vcount = s.vcount := rfl
@[simp] theorem returnData_curFlags (v : Word) : (returnData v s).curFlags = s.curFlags := rfl
@[simp] theorem returnData_texAddr (v : Word) : (returnData v s).texAddr = s.texAddr := rfl
@[simp] theorem returnData_texControl (v : Word) : (returnData v s).texControl = s.texControl := rfl
@[simp] theorem returnData_texFormatBits (v : Word) : (returnData v s).texFormatBits = s.texFormatBits := rfl
@[simp] theorem returnData_texFilter (v : Word) : (returnData v s).texFilter = s.texFilter := rfl
@[simp] theorem returnData_texDesc (v : Word) : (returnData v s).texDesc = s.texDesc := rfl
@[simp] theorem returnData_polys (v : Word) : (returnData v s).polys = s.polys := rfl
@[simp] theorem returnData_tileSize (v : Word) : (returnData v s).tileSize = s.tileSize := rfl
@[simp] theorem returnData_tilesX (v : Word) : (returnData v s).tilesX = s.tilesX := rfl
@[simp] theorem returnData_tilesY (v : Word) : (returnData v s).tilesY = s.tilesY := rfl
@[simp] theorem returnData_tiles (v : Word) : (returnData v s).tiles = s.tiles := rfl
@[simp] theorem returnData_zbuf (v : Word) : (returnData v s).zbuf = s.zbuf := rfl
@[simp] theorem returnData_zfill (v : Word) : (returnData v s).zfill = s.zfill := rfl
@[simp] theorem returnData_zallocs (v : Word) : (returnData v s).zallocs = s.zallocs := rfl
@[simp] theorem returnData_dmaOverlap (v : Word) : (returnData v s).dmaOverlap = s.dmaOverlap := rfl
@[simp] theorem returnData_fifo (v : Word) : (returnData v s).fifo = s.fifo := rfl
@[simp] theorem returnData_width (v : Word) : (returnData v s).width = s.width := rfl
@[simp] theorem returnData_height (v : Word) : (returnData v s).height = s.height := rfl
@[simp] theorem returnData_stride (v : Word) : (returnData v s).stride = s.stride := rfl
@[simp] theorem returnData_bpp (v : Word) : (returnData v s).bpp = s.bpp := rfl
@[simp] theorem returnData_fb (v : Word) : (returnData v s).fb = s.fb := rfl
@[simp] theorem returnData_renderControl (v : Word) : (returnData v s).renderControl = s.renderControl := rfl
@[simp] theorem returnData_renderZbuffer (v : Word) : (returnData v s).renderZbuffer = s.renderZbuffer := rfl
@[simp] theorem returnData_renderBlend (v : Word) : (returnData v s).renderBlend = s.renderBlend := rfl
@[simp] theorem returnData_dmaControl (v : Word) : (returnData v s).dmaControl = s.dmaControl := rfl
@[simp] theorem returnData_dmaSrc (v : Word) : (returnData v s).dmaSrc = s.dmaSrc := rfl
@[simp] theorem returnData_dmaDest (v : Word) : (returnData v s).dmaDest = s.dmaDest := rfl
@[simp] theorem returnData_dmaCount (v : Word) : (returnData v s).dmaCount = s.dmaCount := rfl
@[simp] theorem returnData_timerArmed (v : Word) : (returnData v s).timerArmed = s.timerArmed := rfl
@[simp] theorem returnData_hostMem (v : Word) : (returnData v s).hostMem = s.hostMem := rfl
@[simp] theorem returnData_vram (v : Word) : (returnData v s).vram = s.vram := rfl
@[simp] theorem returnData_displayStart (v : Word) : (returnData v s).displayStart = s.displayStart := rfl
@[simp] theorem returnData_crtVblank (v : Word) : (returnData v s).crtVblank = s.crtVblank := rfl
@[simp] theorem returnData_closed (v : Word) : (returnData v s).closed = s.closed := rfl
@[simp] theorem returnData_inbox (v : Word) : (returnData v s).inbox = s.inbox := rfl
@[simp] theorem returnData_out (v : Word) : (returnData v s).out = .readData v :: s.out := rfl

-- armTimer
@[simp] theorem armTimer_cfg : (armTimer s).cfg = s.cfg := rfl
@[simp] theorem armTimer_regs : (armTimer s).regs = s.regs := rfl
@[simp] theorem armTimer_slots : (armTimer s).slots = s.slots := rfl
@[simp] theorem armTimer_vcount : (armTimer s).vcount = s.vcount := rfl
@[simp] theorem armTimer_curFlags : (armTimer s).curFlags = s.curFlags := rfl
@[simp] theorem armTimer_texAddr : (armTimer s).texAddr = s.texAddr := rfl
@[simp] theorem armTimer_texControl : (armTimer s).texControl = s.texControl := rfl
@[simp] theorem armTimer_texFormatBits : (armTimer s).texFormatBits = s.texFormatBits := rfl
@[simp] theorem armTimer_texFilter : (armTimer s).texFilter = s.texFilter := rfl
@[simp] theorem armTimer_texDesc : (armTimer s).texDesc = s.texDesc := rfl
@[simp] theorem armTimer_polys : (armTimer s).polys = s.polys := rfl
@[simp] theorem armTimer_tileSize : (armTimer s).tileSize = s.tileSize := rfl
@[simp] theorem armTimer_tilesX : (armTimer s).tilesX = s.tilesX := rfl
@[simp] theorem armTimer_tilesY : (armTimer s).tilesY = s.tilesY := rfl
@[simp] theorem armTimer_tiles : (armTimer s).tiles = s.tiles := rfl
@[simp] theorem armTimer_zbuf : (armTimer s).zbuf = s.zbuf := rfl
@[simp] theorem armTimer_zfill : (armTimer s).zfill = s.zfill := rfl
@[simp] theorem armTimer_zallocs : (armTimer s).zallocs = s.zallocs := rfl
@[simp] theorem armTimer_dmaOverlap : (armTimer s).dmaOverlap = s.dmaOverlap := rfl
@[simp] theorem armTimer_fifo : (armTimer s).fifo = s.fifo := rfl
@[simp] theorem armTimer_width : (armTimer s).width = s.width := rfl
@[simp] theorem armTimer_height : (armTimer s).height = s.height := rfl
@[simp] theorem armTimer_stride : (armTimer s).stride = s.stride := rfl
@[simp] theorem armTimer_bpp : (armTimer s).bpp = s.bpp := rfl
@[simp] theorem armTimer_fb : (armTimer s).fb = s.fb := rfl
@[simp] theorem armTimer_renderControl : (armTimer s).renderControl = s.renderControl := rfl
@[simp] theorem armTimer_renderZbuffer : (armTimer s).renderZbuffer = s.renderZbuffer := rfl
@[simp] theorem armTimer_renderBlend : (armTimer s).renderBlend = s.renderBlend := rfl
@[simp] theorem armTimer_dmaControl : (armTimer s).dmaControl = s.dmaControl := rfl
@[simp] theorem armTimer_dmaSrc : (armTimer s).dmaSrc = s.dmaSrc := rfl
@[simp] theorem armTimer_dmaDest : (armTimer s).dmaDest = s.dmaDest := rfl
@[simp] theorem armTimer_dmaCount : (armTimer s).dmaCount = s.dmaCount := rfl
@[simp] theorem armTimer_timerArmed : (armTimer s).timerArmed = true := rfl
@[simp] theorem armTimer_hostMem : (armTimer s).hostMem = s.hostMem := rfl
@[simp] theorem armTimer_vram : (armTimer s).vram = s.vram := rfl
@[simp] theorem armTimer_displayStart : (armTimer s).displayStart = s.displayStart := rfl
@[simp] theorem armTimer_crtVblank : (armTimer s).crtVblank = s.crtVblank := rfl
@[simp] theorem armTimer_closed : (armTimer s).closed = s.closed := rfl
@[simp] theorem armTimer_inbox : (armTimer s).inbox = s.inbox := rfl
@[simp] theorem armTimer_out : (armTimer s).out = .timerArm s.cfg.timerLatencyUs :: s.out := rfl

-- setRegBit
@[simp] theorem setRegBit_cfg (r : RegName) (i : Nat) (b : Bool) : (setRegBit r i b s).cfg = s.cfg := rfl
@[simp] theorem setRegBit_regs (r : RegName) (i : Nat) (b : Bool) : (setRegBit r i b s).regs = cellsWrite regDefault s.regs r.key (putBit (getReg s r) (bitPlace s.cfg r i) b) := rfl
@[simp] theorem setRegBit_slots (r : RegName) (i : Nat) (b : Bool) : (setRegBit r i b s).slots = s.slots := rfl
@[simp] theorem setRegBit_vcount (r : RegName) (i : Nat) (b : Bool) : (setRegBit r i b s).vcount = s.vcount := rfl
@[simp] theorem setRegBit_curFlags (r : RegName) (i : Nat) (b : Bool) : (setRegBit r i b s).curFlags = s.curFlags := rfl
@[simp] theorem setRegBit_texAddr (r : RegName) (i : Nat) (b : Bool) : (setRegBit r i b s).texAddr = s.texAddr := rfl
@[simp] theorem setRegBit_texControl (r : RegName) (i : Nat) (b : Bool) : (setRegBit r i b s).texControl = s.texControl := rfl
@[simp] theorem setRegBit_texFormatBits (r : RegName) (i : Nat) (b : Bool) : (setRegBit r i b s).texFormatBits = s.texFormatBits := rfl
@[simp] theorem setRegBit_texFilter (r : RegName) (i : Nat) (b : Bool) : (setRegBit r i b s).texFilter = s.texFilter := rfl
@[simp] theorem setRegBit_texDesc (r : RegName) (i : Nat) (b : Bool) : (setRegBit r i b s).texDesc = s.texDesc := rfl
@[simp] theorem setRegBit_polys (r : RegName) (i : Nat) (b : Bool) : (setRegBit r i b s).polys = s.polys := rfl
@[simp] theorem setRegBit_tileSize (r : RegName) (i : Nat) (b : Bool) : (setRegBit r i b s).tileSize = s.tileSize := rfl
@[simp] theorem setRegBit_tilesX (r : RegName) (i : Nat) (b : Bool) : (setRegBit r i b s).tilesX = s.tilesX := rfl
@[simp] theorem setRegBit_tilesY (r : RegName) (i : Nat) (b : Bool) : (setRegBit r i b s).tilesY = s.tilesY := rfl
@[simp] theorem setRegBit_tiles (r : RegName) (i : Nat) (b : Bool) : (setRegBit r i b s).tiles = s.tiles := rfl
@[simp] theorem setRegBit_zbuf (r : RegName) (i : Nat) (b : Bool) : (setRegBit r i b s).zbuf = s.zbuf := rfl
@[simp] theorem setRegBit_zfill (r : RegName) (i : Nat) (b : Bool) : (setRegBit r i b s).zfill = s.zfill := rfl
@[simp] theorem setRegBit_zallocs (r : RegName) (i : Nat) (b : Bool) : (setRegBit r i b s).zallocs = s.zallocs := rfl
@[simp] theorem setRegBit_dmaOverlap (r : RegName) (i : Nat) (b : Bool) : (setRegBit r i b s).dmaOverlap = s.dmaOverlap := rfl
@[simp] theorem setRegBit_fifo (r : RegName) (i : Nat) (b : Bool) : (setRegBit r i b s).fifo = s.fifo := rfl
@[simp] theorem setRegBit_width (r : RegName) (i : Nat) (b : Bool) : (setRegBit r i b s).width = s.width := rfl
@[simp] theorem setRegBit_height (r : RegName) (i : Nat) (b : Bool) : (setRegBit r i b s).height = s.height := rfl
@[simp] theorem setRegBit_stride (r : RegName) (i : Nat) (b : Bool) : (setRegBit r i b s).stride = s.stride := rfl
@[simp] theorem setRegBit_bpp (r : RegName) (i : Nat) (b : Bool) : (setRegBit r i b s).bpp = s.bpp := rfl
@[simp] theorem setRegBit_fb (r : RegName) (i : Nat) (b : Bool) : (setRegBit r i b s).fb = s.fb := rfl
@[simp] theorem setRegBit_renderControl (r : RegName) (i : Nat) (b : Bool) : (setRegBit r i b s).renderControl = s.renderControl := rfl
@[simp] theorem setRegBit_renderZbuffer (r : RegName) (i : Nat) (b : Bool) : (setRegBit r i b s).renderZbuffer = s.renderZbuffer := rfl
@[simp] theorem setRegBit_renderBlend (r : RegName) (i : Nat) (b : Bool) : (setRegBit r i b s).renderBlend = s.renderBlend := rfl
@[simp] theorem setRegBit_dmaControl (r : RegName) (i : Nat) (b : Bool) : (setRegBit r i b s).dmaControl = s.dmaControl := rfl
@[simp] theorem setRegBit_dmaSrc (r : RegName) (i : Nat) (b : Bool) : (setRegBit r i b s).dmaSrc = s.dmaSrc := rfl
@[simp] theorem setRegBit_dmaDest (r : RegName) (i : Nat) (b : Bool) : (setRegBit r i b s).dmaDest = s.dmaDest := rfl
@[simp] theorem setRegBit_dmaCount (r : RegName) (i : Nat) (b : Bool) : (setRegBit r i b s).dmaCount = s.dmaCount := rfl
@[simp] theorem setRegBit_timerArmed (r : RegName) (i : Nat) (b : Bool) : (setRegBit r i b s).timerArmed = s.timerArmed := rfl
@[simp] theorem setRegBit_hostMem (r : RegName) (i : Nat) (b : Bool) : (setRegBit r i b s).hostMem = s.hostMem := rfl
@[simp] theorem setRegBit_vram (r : RegName) (i : Nat) (b : Bool) : (setRegBit r i b s).vram = s.vram := rfl
@[simp] theorem setRegBit_displayStart (r : RegName) (i : Nat) (b : Bool) : (setRegBit r i b s).displayStart = s.displayStart := rfl
@[simp] theorem setRegBit_crtVblank (r : RegName) (i : Nat) (b : Bool) : (setRegBit r i b s).crtVblank = s.crtVblank := rfl
@[simp] theorem setRegBit_closed (r : RegName) (i : Nat) (b : Bool) : (setRegBit r i b s).closed = s.closed := rfl
@[simp] theorem setRegBit_inbox (r : RegName) (i : Nat) (b : Bool) : (setRegBit r i b s).inbox = s.inbox := rfl
@[simp] theorem setRegBit_out (r : RegName) (i : Nat) (b : Bool) : (setRegBit r i b s).out = s.out := rfl

-- setStatus
@[simp] theorem setStatus_cfg (i : Nat) (b : Bool) : (setStatus i b s).cfg = s.cfg := rfl
@[simp] theorem setStatus_regs (i : Nat) (b : Bool) : (setStatus i b s).regs = cellsWrite regDefault s.regs regCoreStatus.key (putBit (getReg s regCoreStatus) (bitPlace s.cfg regCoreStatus i) b) := rfl
@[simp] theorem setStatus_slots (i : Nat) (b : Bool) : (setStatus i b s).slots = s.slots := rfl
@[simp] theorem setStatus_vcount (i : Nat) (b : Bool) : (setStatus i b s).vcount = s.vcount := rfl
@[simp] theorem setStatus_curFlags (i : Nat) (b : Bool) : (setStatus i b s).curFlags = s.curFlags := rfl
@[simp] theorem setStatus_texAddr (i : Nat) (b : Bool) : (setStatus i b s).texAddr = s.texAddr := rfl
@[simp] theorem setStatus_texControl (i : Nat) (b : Bool) : (setStatus i b s).texControl = s.texControl := rfl
@[simp] theorem setStatus_texFormatBits (i : Nat) (b : Bool) : (setStatus i b s).texFormatBits = s.texFormatBits := rfl
@[simp] theorem setStatus_texFilter (i : Nat) (b : Bool) : (setStatus i b s).texFilter = s.texFilter := rfl
@[simp] theorem setStatus_texDesc (i : Nat) (b : Bool) : (setStatus i b s).texDesc = s.texDesc := rfl
@[simp] theorem setStatus_polys (i : Nat) (b : Bool) : (setStatus i b s).polys = s.polys := rfl
@[simp] theorem setStatus_tileSize (i : Nat) (b : Bool) : (setStatus i b s).tileSize = s.tileSize := rfl
@[simp] theorem setStatus_tilesX (i : Nat) (b : Bool) : (setStatus i b s).tilesX = s.tilesX := rfl
@[simp] theorem setStatus_tilesY (i : Nat) (b : Bool) : (setStatus i b s).tilesY = s.tilesY := rfl
@[simp] theorem setStatus_tiles (i : Nat) (b : Bool) : (setStatus i b s).tiles = s.tiles := rfl
@[simp] theorem setStatus_zbuf (i : Nat) (b : Bool) : (setStatus i b s).zbuf = s.zbuf := rfl
@[simp] theorem setStatus_zfill (i : Nat) (b : Bool) : (setStatus i b s).zfill = s.zfill := rfl
@[simp] theorem setStatus_zallocs (i : Nat) (b : Bool) : (setStatus i b s).zallocs = s.zallocs := rfl
@[simp] theorem setStatus_dmaOverlap (i : Nat) (b : Bool) : (setStatus i b s).dmaOverlap = s.dmaOverlap := rfl
@[simp] theorem setStatus_fifo (i : Nat) (b : Bool) : (setStatus i b s).fifo = s.fifo := rfl
@[simp] theorem setStatus_width (i : Nat) (b : Bool) : (setStatus i b s).width = s.width := rfl
@[simp] theorem setStatus_height (i : Nat) (b : Bool) : (setStatus i b s).height = s.height := rfl
@[simp] theorem setStatus_stride (i : Nat) (b : Bool) : (setStatus i b s).stride = s.stride := rfl
@[simp] theorem setStatus_bpp (i : Nat) (b : Bool) : (setStatus i b s).bpp = s.bpp := rfl
@[simp] theorem setStatus_fb (i : Nat) (b : Bool) : (setStatus i b s).fb = s.fb := rfl
@[simp] theorem setStatus_renderControl (i : Nat) (b : Bool) : (setStatus i b s).renderControl = s.renderControl := rfl
@[simp] theorem setStatus_renderZbuffer (i : Nat) (b : Bool) : (setStatus i b s).renderZbuffer = s.renderZbuffer := rfl
@[simp] theorem setStatus_renderBlend (i : Nat) (b : Bool) : (setStatus i b s).renderBlend = s.renderBlend := rfl
@[simp] theorem setStatus_dmaControl (i : Nat) (b : Bool) : (setStatus i b s).dmaControl = s.dmaControl := rfl
@[simp] theorem setStatus_dmaSrc (i : Nat) (b : Bool) : (setStatus i b s).dmaSrc = s.dmaSrc := rfl
@[simp] theorem setStatus_dmaDest (i : Nat) (b : Bool) : (setStatus i b s).dmaDest = s.dmaDest := rfl
@[simp] theorem setStatus_dmaCount (i : Nat) (b : Bool) : (setStatus i b s).dmaCount = s.dmaCount := rfl
@[simp] theorem setStatus_timerArmed (i : Nat) (b : Bool) : (setStatus i b s).timerArmed = s.timerArmed := rfl
@[simp] theorem setStatus_hostMem (i : Nat) (b : Bool) : (setStatus i b s).hostMem = s.hostMem := rfl
@[simp] theorem setStatus_vram (i : Nat) (b : Bool) : (setStatus i b s).vram = s.vram := rfl
@[simp] theorem setStatus_displayStart (i : Nat) (b : Bool) : (setStatus i b s).displayStart = s.displayStart := rfl
@[simp] theorem setStatus_crtVblank (i : Nat) (b : Bool) : (setStatus i b s).crtVblank = s.crtVblank := rfl
@[simp] theorem setStatus_closed (i : Nat) (b : Bool) : (setStatus i b s).closed = s.closed := rfl
@[simp] theorem setStatus_inbox (i : Nat) (b : Bool) : (setStatus i b s).inbox = s.inbox := rfl
@[simp] theorem setStatus_out (i : Nat) (b : Bool) : (setStatus i b s).out = s.out := rfl

-- updateOpenSlot
@[simp] theorem updateOpenSlot_cfg (f : Slot → Slot) : (updateOpenSlot f s).cfg = s.cfg := rfl
@[simp] theorem updateOpenSlot_regs (f : Slot → Slot) : (updateOpenSlot f s).regs = s.regs := rfl
@[simp] theorem updateOpenSlot_slots (f : Slot → Slot) : (updateOpenSlot f s).slots = putSlotAt s.slots s.vcount (f (openSlot s)) := rfl
@[simp] theorem updateOpenSlot_vcount (f : Slot → Slot) : (updateOpenSlot f s).vcount = s.vcount := rfl
@[simp] theorem updateOpenSlot_curFlags (f : Slot → Slot) : (updateOpenSlot f s).curFlags = s.curFlags := rfl
@[simp] theorem updateOpenSlot_texAddr (f : Slot → Slot) : (updateOpenSlot f s).texAddr = s.texAddr := rfl
@[simp] theorem updateOpenSlot_texControl (f : Slot → Slot) : (updateOpenSlot f s).texControl = s.texControl := rfl
@[simp] theorem updateOpenSlot_texFormatBits (f : Slot → Slot) : (updateOpenSlot f s).texFormatBits = s.texFormatBits := rfl
@[simp] theorem updateOpenSlot_texFilter (f : Slot → Slot) : (updateOpenSlot f s).texFilter = s.texFilter := rfl
@[simp] theorem updateOpenSlot_texDesc (f : Slot → Slot) : (updateOpenSlot f s).texDesc = s.texDesc := rfl
@[simp] theorem updateOpenSlot_polys (f : Slot → Slot) : (updateOpenSlot f s).polys = s.polys := rfl
@[simp] theorem updateOpenSlot_tileSize (f : Slot → Slot) : (updateOpenSlot f s).tileSize = s.tileSize := rfl
@[simp] theorem updateOpenSlot_tilesX (f : Slot → Slot) : (updateOpenSlot f s).tilesX = s.tilesX := rfl
@[simp] theorem updateOpenSlot_tilesY (f : Slot → Slot) : (updateOpenSlot f s).tilesY = s.tilesY := rfl
@[simp] theorem updateOpenSlot_tiles (f : Slot → Slot) : (updateOpenSlot f s).tiles = s.tiles := rfl
@[simp] theorem updateOpenSlot_zbuf (f : Slot → Slot) : (updateOpenSlot f s).zbuf = s.zbuf := rfl
@[simp] theorem updateOpenSlot_zfill (f : Slot → Slot) : (updateOpenSlot f s).zfill = s.zfill := rfl
@[simp] theorem updateOpenSlot_zallocs (f : Slot → Slot) : (updateOpenSlot f s).zallocs = s.zallocs := rfl
@[simp] theorem updateOpenSlot_dmaOverlap (f : Slot → Slot) : (updateOpenSlot f s).dmaOverlap = s.dmaOverlap := rfl
@[simp] theorem updateOpenSlot_fifo (f : Slot → Slot) : (updateOpenSlot f s).fifo = s.fifo := rfl
@[simp] theorem updateOpenSlot_width (f : Slot → Slot) : (updateOpenSlot f s).width = s.width := rfl
@[simp] theorem updateOpenSlot_height (f : Slot → Slot) : (updateOpenSlot f s).height = s.height := rfl
@[simp] theorem updateOpenSlot_stride (f : Slot → Slot) : (updateOpenSlot f s).stride = s.stride := rfl
@[simp] theorem updateOpenSlot_bpp (f : Slot → Slot) : (updateOpenSlot f s).bpp = s.bpp := rfl
@[simp] theorem updateOpenSlot_fb (f : Slot → Slot) : (updateOpenSlot f s).fb = s.fb := rfl
@[simp] theorem updateOpenSlot_renderControl (f : Slot → Slot) : (updateOpenSlot f s).renderControl = s.renderControl := rfl
@[simp] theorem updateOpenSlot_renderZbuffer (f : Slot → Slot) : (updateOpenSlot f s).renderZbuffer = s.renderZbuffer := rfl
@[simp] theorem updateOpenSlot_renderBlend (f : Slot → Slot) : (updateOpenSlot f s).renderBlend = s.renderBlend := rfl
@[simp] theorem updateOpenSlot_dmaControl (f : Slot → Slot) : (updateOpenSlot f s).dmaControl = s.dmaControl := rfl
@[simp] theorem updateOpenSlot_dmaSrc (f : Slot → Slot) : (updateOpenSlot f s).dmaSrc = s.dmaSrc := rfl
@[simp] theorem updateOpenSlot_dmaDest (f : Slot → Slot) : (updateOpenSlot f s).dmaDest = s.dmaDest := rfl
@[simp] theorem updateOpenSlot_dmaCount (f : Slot → Slot) : (updateOpenSlot f s).dmaCount = s.dmaCount := rfl
@[simp] theorem updateOpenSlot_timerArmed (f : Slot → Slot) : (updateOpenSlot f s).timerArmed = s.timerArmed := rfl
@[simp] theorem updateOpenSlot_hostMem (f : Slot → Slot) : (updateOpenSlot f s).hostMem = s.hostMem := rfl
@[simp] theorem updateOpenSlot_vram (f : Slot → Slot) : (updateOpenSlot f s).vram = s.vram := rfl
@[simp] theorem updateOpenSlot_displayStart (f : Slot → Slot) : (updateOpenSlot f s).displayStart = s.displayStart := rfl
@[simp] theorem updateOpenSlot_crtVblank (f : Slot → Slot) : (updateOpenSlot f s).crtVblank = s.crtVblank := rfl
@[simp] theorem updateOpenSlot_closed (f : Slot → Slot) : (updateOpenSlot f s).closed = s.closed := rfl
@[simp] theorem updateOpenSlot_inbox (f : Slot → Slot) : (updateOpenSlot f s).inbox = s.inbox := rfl
@[simp] theorem updateOpenSlot_out (f : Slot → Slot) : (updateOpenSlot f s).out = s.out := rfl

-- bindDisplay
@[simp] theorem bindDisplay_cfg (w h st d : Nat) (fb : FbRef) : (bindDisplay w h st d fb s).cfg = s.cfg := rfl
@[simp] theorem bindDisplay_regs (w h st d : Nat) (fb : FbRef) : (bindDisplay w h st d fb s).regs = s.regs := rfl
@[simp] theorem bindDisplay_slots (w h st d : Nat) (fb : FbRef) : (bindDisplay w h st d fb s).slots = s.slots := rfl
@[simp] theorem bindDisplay_vcount (w h st d : Nat) (fb : FbRef) : (bindDisplay w h st d fb s).vcount = s.vcount := rfl
@[simp] theorem bindDisplay_curFlags (w h st d : Nat) (fb : FbRef) : (bindDisplay w h st d fb s).curFlags = s.curFlags := rfl
@[simp] theorem bindDisplay_texAddr (w h st d : Nat) (fb : FbRef) : (bindDisplay w h st d fb s).texAddr = s.texAddr := rfl
@[simp] theorem bindDisplay_texControl (w h st d : Nat) (fb : FbRef) : (bindDisplay w h st d fb s).texControl = s.texControl := rfl
@[simp] theorem bindDisplay_texFormatBits (w h st d : Nat) (fb : FbRef) : (bindDisplay w h st d fb s).texFormatBits = s.texFormatBits := rfl
@[simp] theorem bindDisplay_texFilter (w h st d : Nat) (fb : FbRef) : (bindDisplay w h st d fb s).texFilter = s.texFilter := rfl
@[simp] theorem bindDisplay_texDesc (w h st d : Nat) (fb : FbRef) : (bindDisplay w h st d fb s).texDesc = s.texDesc := rfl
@[simp] theorem bindDisplay_polys (w h st d : Nat) (fb : FbRef) : (bindDisplay w h st d fb s).polys = s.polys := rfl
@[simp] theorem bindDisplay_tileSize (w h st d : Nat) (fb : FbRef) : (bindDisplay w h st d fb s).tileSize = s.tileSize := rfl
@[simp] theorem bindDisplay_tilesX (w h st d : Nat) (fb : FbRef) : (bindDisplay w h st d fb s).tilesX = s.tilesX := rfl
@[simp] theorem bindDisplay_tilesY (w h st d : Nat) (fb : FbRef) : (bindDisplay w h st d fb s).tilesY = s.tilesY := rfl
@[simp] theorem bindDisplay_tiles (w h st d : Nat) (fb : FbRef) : (bindDisplay w h st d fb s).tiles = s.tiles := rfl
@[simp] theorem bindDisplay_zbuf (w h st d : Nat) (fb : FbRef) : (bindDisplay w h st d fb s).zbuf = s.zbuf := rfl
@[simp] theorem bindDisplay_zfill (w h st d : Nat) (fb : FbRef) : (bindDisplay w h st d fb s).zfill = s.zfill := rfl
@[simp] theorem bindDisplay_zallocs (w h st d : Nat) (fb : FbRef) : (bindDisplay w h st d fb s).zallocs = s.zallocs := rfl
@[simp] theorem bindDisplay_dmaOverlap (w h st d : Nat) (fb : FbRef) : (bindDisplay w h st d fb s).dmaOverlap = s.dmaOverlap := rfl
@[simp] theorem bindDisplay_fifo (w h st d : Nat) (fb : FbRef) : (bindDisplay w h st d fb s).fifo = s.fifo := rfl
@[simp] theorem bindDisplay_width (w h st d : Nat) (fb : FbRef) : (bindDisplay w h st d fb s).width = w := rfl
@[simp] theorem bindDisplay_height (w h st d : Nat) (fb : FbRef) : (bindDisplay w h st d fb s).height = h := rfl
@[simp] theorem bindDisplay_stride (w h st d : Nat) (fb : FbRef) : (bindDisplay w h st d fb s).stride = st := rfl
@[simp] theorem bindDisplay_bpp (w h st d : Nat) (fb : FbRef) : (bindDisplay w h st d fb s).bpp = d := rfl
@[simp] theorem bindDisplay_fb (w h st d : Nat) (fb : FbRef) : (bindDisplay w h st d fb s).fb = fb := rfl
@[simp] theorem bindDisplay_renderControl (w h st d : Nat) (fb : FbRef) : (bindDisplay w h st d fb s).renderControl = s.renderControl := rfl
@[simp] theorem bindDisplay_renderZbuffer (w h st d : Nat) (fb : FbRef) : (bindDisplay w h st d fb s).renderZbuffer = s.renderZbuffer := rfl
@[simp] theorem bindDisplay_renderBlend (w h st d : Nat) (fb : FbRef) : (bindDisplay w h st d fb s).renderBlend = s.renderBlend := rfl
@[simp] theorem bindDisplay_dmaControl (w h st d : Nat) (fb : FbRef) : (bindDisplay w h st d fb s).dmaControl = s.dmaControl := rfl
@[simp] theorem bindDisplay_dmaSrc (w h st d : Nat) (fb : FbRef) : (bindDisplay w h st d fb s).dmaSrc = s.dmaSrc := rfl
@[simp] theorem bindDisplay_dmaDest (w h st d : Nat) (fb : FbRef) : (bindDisplay w h st d fb s).dmaDest = s.dmaDest := rfl
@[simp] theorem bindDisplay_dmaCount (w h st d : Nat) (fb : FbRef) : (bindDisplay w h st d fb s).dmaCount = s.dmaCount := rfl
@[simp] theorem bindDisplay_timerArmed (w h st d : Nat) (fb : FbRef) : (bindDisplay w h st d fb s).timerArmed = s.timerArmed := rfl
@[simp] theorem bindDisplay_hostMem (w h st d : Nat) (fb : FbRef) : (bindDisplay w h st d fb s).hostMem = s.hostMem := rfl
@[simp] theorem bindDisplay_vram (w h st d : Nat) (fb : FbRef) : (bindDisplay w h st d fb s).vram = s.vram := rfl
@[simp] theorem bindDisplay_displayStart (w h st d : Nat) (fb : FbRef) : (bindDisplay w h st d fb s).displayStart = s.displayStart := rfl
@[simp] theorem bindDisplay_crtVblank (w h st d : Nat) (fb : FbRef) : (bindDisplay w h st d fb s).crtVblank = s.crtVblank := rfl
@[simp] theorem bindDisplay_closed (w h st d : Nat) (fb : FbRef) : (bindDisplay w h st d fb s).closed = s.closed := rfl
@[simp] theorem bindDisplay_inbox (w h st d : Nat) (fb : FbRef) : (bindDisplay w h st d fb s).inbox = s.inbox := rfl
@[simp] theorem bindDisplay_out (w h st d : Nat) (fb : FbRef) : (bindDisplay w h st d fb s).out = s.out := rfl

-- buildGrid
@[simp] theorem buildGrid_cfg (w h : Nat) : (buildGrid w h s).cfg = s.cfg := rfl
@[simp] theorem buildGrid_regs (w h : Nat) : (buildGrid w h s).regs = s.regs := rfl
@[simp] theorem buildGrid_slots (w h : Nat) : (buildGrid w h s).slots = s.slots := rfl
@[simp] theorem buildGrid_vcount (w h : Nat) : (buildGrid w h s).vcount = s.vcount := rfl
@[simp] theorem buildGrid_curFlags (w h : Nat) : (buildGrid w h s).curFlags = s.curFlags := rfl
@[simp] theorem buildGrid_texAddr (w h : Nat) : (buildGrid w h s).texAddr = s.texAddr := rfl
@[simp] theorem buildGrid_texControl (w h : Nat) : (buildGrid w h s).texControl = s.texControl := rfl
@[simp] theorem buildGrid_texFormatBits (w h : Nat) : (buildGrid w h s).texFormatBits = s.texFormatBits := rfl
@[simp] theorem buildGrid_texFilter (w h : Nat) : (buildGrid w h s).texFilter = s.texFilter := rfl
@[simp] theorem buildGrid_texDesc (w h : Nat) : (buildGrid w h s).texDesc = s.texDesc := rfl
@[simp] theorem buildGrid_polys (w h : Nat) : (buildGrid w h s).polys = s.polys := rfl
@[simp] theorem buildGrid_tileSize (w h : Nat) : (buildGrid w h s).tileSize = s.tileSize := rfl
@[simp] theorem buildGrid_tilesX (w h : Nat) : (buildGrid w h s).tilesX = ceilDiv w s.tileSize := rfl
@[simp] theorem buildGrid_tilesY (w h : Nat) : (buildGrid w h s).tilesY = ceilDiv h s.tileSize := rfl
@[simp] theorem buildGrid_tiles (w h : Nat) : (buildGrid w h s).tiles = gridTiles s.tileSize w h := rfl
@[simp] theorem buildGrid_zbuf (w h : Nat) : (buildGrid w h s).zbuf = [] := rfl
@[simp] theorem buildGrid_zfill (w h : Nat) : (buildGrid w h s).zfill = .fresh s.zallocs := rfl
@[simp] theorem buildGrid_zallocs (w h : Nat) : (buildGrid w h s).zallocs = s.zallocs + 1 := rfl
@[simp] theorem buildGrid_dmaOverlap (w h : Nat) : (buildGrid w h s).dmaOverlap = s.dmaOverlap := rfl
@[simp] theorem buildGrid_fifo (w h : Nat) : (buildGrid w h s).fifo = s.fifo := rfl
@[simp] theorem buildGrid_width (w h : Nat) : (buildGrid w h s).width = s.width := rfl
@[simp] theorem buildGrid_height (w h : Nat) : (buildGrid w h s).height = s.height := rfl
@[simp] theorem buildGrid_stride (w h : Nat) : (buildGrid w h s).stride = s.stride := rfl
@[simp] theorem buildGrid_bpp (w h : Nat) : (buildGrid w h s).bpp = s.bpp := rfl
@[simp] theorem buildGrid_fb (w h : Nat) : (buildGrid w h s).fb = s.fb := rfl
@[simp] theorem buildGrid_renderControl (w h : Nat) : (buildGrid w h s).renderControl = s.renderControl := rfl
@[simp] theorem buildGrid_renderZbuffer (w h : Nat) : (buildGrid w h s).renderZbuffer = s.renderZbuffer := rfl
@[simp] theorem buildGrid_renderBlend (w h : Nat) : (buildGrid w h s).renderBlend = s.renderBlend := rfl
@[simp] theorem buildGrid_dmaControl (w h : Nat) : (buildGrid w h s).dmaControl = s.dmaControl := rfl
@[simp] theorem buildGrid_dmaSrc (w h : Nat) : (buildGrid w h s).dmaSrc = s.dmaSrc := rfl
@[simp] theorem buildGrid_dmaDest (w h : Nat) : (buildGrid w h s).dmaDest = s.dmaDest := rfl
@[simp] theorem buildGrid_dmaCount (w h : Nat) : (buildGrid w h s).dmaCount = s.dmaCount := rfl
@[simp] theorem buildGrid_timerArmed (w h : Nat) : (buildGrid w h s).timerArmed = s.timerArmed := rfl
@[simp] theorem buildGrid_hostMem (w h : Nat) : (buildGrid w h s).hostMem = s.hostMem := rfl
@[simp] theorem buildGrid_vram (w h : Nat) : (buildGrid w h s).vram = s.vram := rfl
@[simp] theorem buildGrid_displayStart (w h : Nat) : (buildGrid w h s).displayStart = s.displayStart := rfl
@[simp] theorem buildGrid_crtVblank (w h : Nat) : (buildGrid w h s).crtVblank = s.crtVblank := rfl
@[simp] theorem buildGrid_closed (w h : Nat) : (buildGrid w h s).closed = s.closed := rfl
@[simp] theorem buildGrid_inbox (w h : Nat) : (buildGrid w h s).inbox = s.inbox := rfl
@[simp] theorem buildGrid_out (w h : Nat) : (buildGrid w h s).out = s.out := rfl

-- resetPipeline
@[simp] theorem resetPipeline_cfg : (resetPipeline s).cfg = s.cfg := rfl
@[simp] theorem resetPipeline_regs : (resetPipeline s).regs = seedRegs s.cfg := rfl
@[simp] theorem resetPipeline_slots : (resetPipeline s).slots = ⟨Slot.zero, Slot.zero, Slot.zero⟩ := rfl
@[simp] theorem resetPipeline_vcount : (resetPipeline s).vcount = 0 := rfl
@[simp] theorem resetPipeline_curFlags : (resetPipeline s).curFlags = 0#32 := rfl
@[simp] theorem resetPipeline_texAddr : (resetPipeline s).texAddr = 0#32 := rfl
@[simp] theorem resetPipeline_texControl : (resetPipeline s).texControl = s.cfg.texControlDefault := rfl
@[simp] theorem resetPipeline_texFormatBits : (resetPipeline s).texFormatBits = s.cfg.texFormatDefault := rfl
@[simp] theorem resetPipeline_texFilter : (resetPipeline s).texFilter = s.cfg.texFilterDefault := rfl
@[simp] theorem resetPipeline_texDesc : (resetPipeline s).texDesc = decodeTexFormat s.cfg s.cfg.texFormatDefault := rfl
@[simp] theorem resetPipeline_polys : (resetPipeline s).polys = [] := rfl
@[simp] theorem resetPipeline_tileSize : (resetPipeline s).tileSize = tileSizeOf s.cfg.configDefault := rfl
@[simp] theorem resetPipeline_tilesX : (resetPipeline s).tilesX = s.tilesX := rfl
@[simp] theorem resetPipeline_tilesY : (resetPipeline s).tilesY = s.tilesY := rfl
@[simp] theorem resetPipeline_tiles : (resetPipeline s).tiles = s.tiles := rfl
@[simp] theorem resetPipeline_zbuf : (resetPipeline s).zbuf = s.zbuf := rfl
@[simp] theorem resetPipeline_zfill : (resetPipeline s).zfill = s.zfill := rfl
@[simp] theorem resetPipeline_zallocs : (resetPipeline s).zallocs = s.zallocs := rfl
@[simp] theorem resetPipeline_dmaOverlap : (resetPipeline s).dmaOverlap = s.dmaOverlap := rfl
@[simp] theorem resetPipeline_fifo : (resetPipeline s).fifo = ⟨s.fifo.entry, 0, 0, 0⟩ := rfl
@[simp] theorem resetPipeline_width : (resetPipeline s).width = s.width := rfl
@[simp] theorem resetPipeline_height : (resetPipeline s).height = s.height := rfl
@[simp] theorem resetPipeline_stride : (resetPipeline s).stride = s.stride := rfl
@[simp] theorem resetPipeline_bpp : (resetPipeline s).bpp = s.bpp := rfl
@[simp] theorem resetPipeline_fb : (resetPipeline s).fb = s.fb := rfl
@[simp] theorem resetPipeline_renderControl : (resetPipeline s).renderControl = 0#32 := rfl
@[simp] theorem resetPipeline_renderZbuffer : (resetPipeline s).renderZbuffer = s.cfg.zbufferDefault := rfl
@[simp] theorem resetPipeline_renderBlend : (resetPipeline s).renderBlend = s.cfg.blendDefault := rfl
@[simp] theorem resetPipeline_dmaControl : (resetPipeline s).dmaControl = 0#32 := rfl
@[simp] theorem resetPipeline_dmaSrc : (resetPipeline s).dmaSrc = 0#32 := rfl
@[simp] theorem resetPipeline_dmaDest : (resetPipeline s).dmaDest = 0#32 := rfl
@[simp] theorem resetPipeline_dmaCount : (resetPipeline s).dmaCount = 0#32 := rfl
@[simp] theorem resetPipeline_timerArmed : (resetPipeline s).timerArmed = s.timerArmed := rfl
@[simp] theorem resetPipeline_hostMem : (resetPipeline s).hostMem = s.hostMem := rfl
@[simp] theorem resetPipeline_vram : (resetPipeline s).vram = s.vram := rfl
@[simp] theorem resetPipeline_displayStart : (resetPipeline s).displayStart = s.displayStart := rfl
@[simp] theorem resetPipeline_crtVblank : (resetPipeline s).crtVblank = s.crtVblank := rfl
@[simp] theorem resetPipeline_closed : (resetPipeline s).closed = s.closed := rfl
@[simp] theorem resetPipeline_inbox : (resetPipeline s).inbox = s.inbox := rfl
@[simp] theorem resetPipeline_out : (resetPipeline s).out = s.out := rfl

-- setFbMemory
@[simp] theorem setFbMemory_cfg (m : Memory) : (setFbMemory m s).cfg = s.cfg := by unfold setFbMemory; split <;> rfl
@[simp] theorem setFbMemory_regs (m : Memory) : (setFbMemory m s).regs = s.regs := by unfold setFbMemory; split <;> rfl
@[simp] theorem setFbMemory_slots (m : Memory) : (setFbMemory m s).slots = s.slots := by unfold setFbMemory; split <;> rfl
@[simp] theorem setFbMemory_vcount (m : Memory) : (setFbMemory m s).vcount = s.vcount := by unfold setFbMemory; split <;> rfl
@[simp] theorem setFbMemory_curFlags (m : Memory) : (setFbMemory m s).curFlags = s.curFlags := by unfold setFbMemory; split <;> rfl
@[simp] theorem setFbMemory_texAddr (m : Memory) : (setFbMemory m s).texAddr = s.texAddr := by unfold setFbMemory; split <;> rfl
@[simp] theorem setFbMemory_texControl (m : Memory) : (setFbMemory m s).texControl = s.texControl := by unfold setFbMemory; split <;> rfl
@[simp] theorem setFbMemory_texFormatBits (m : Memory) : (setFbMemory m s).texFormatBits = s.texFormatBits := by unfold setFbMemory; split <;> rfl
@[simp] theorem setFbMemory_texFilter (m : Memory) : (setFbMemory m s).texFilter = s.texFilter := by unfold setFbMemory; split <;> rfl
@[simp] theorem setFbMemory_texDesc (m : Memory) : (setFbMemory m s).texDesc = s.texDesc := by unfold setFbMemory; split <;> rfl
@[simp] theorem setFbMemory_polys (m : Memory) : (setFbMemory m s).polys = s.polys := by unfold setFbMemory; split <;> rfl
@[simp] theorem setFbMemory_tileSize (m : Memory) : (setFbMemory m s).tileSize = s.tileSize := by unfold setFbMemory; split <;> rfl
@[simp] theorem setFbMemory_tilesX (m : Memory) : (setFbMemory m s).tilesX = s.tilesX := by unfold setFbMemory; split <;> rfl
@[simp] theorem setFbMemory_tilesY (m : Memory) : (setFbMemory m s).tilesY = s.tilesY := by unfold setFbMemory; split <;> rfl
@[simp] theorem setFbMemory_tiles (m : Memory) : (setFbMemory m s).tiles = s.tiles := by unfold setFbMemory; split <;> rfl
@[simp] theorem setFbMemory_zbuf (m : Memory) : (setFbMemory m s).zbuf = s.zbuf := by unfold setFbMemory; split <;> rfl
@[simp] theorem setFbMemory_zfill (m : Memory) : (setFbMemory m s).zfill = s.zfill := by unfold setFbMemory; split <;> rfl
@[simp] theorem setFbMemory_zallocs (m : Memory) : (setFbMemory m s).zallocs = s.zallocs := by unfold setFbMemory; split <;> rfl
@[simp] theorem setFbMemory_dmaOverlap (m : Memory) : (setFbMemory m s).dmaOverlap = s.dmaOverlap := by unfold setFbMemory; split <;> rfl
@[simp] theorem setFbMemory_fifo (m : Memory) : (setFbMemory m s).fifo = s.fifo := by unfold setFbMemory; split <;> rfl
@[simp] theorem setFbMemory_width (m : Memory) : (setFbMemory m s).width = s.width := by unfold setFbMemory; split <;> rfl
@[simp] theorem setFbMemory_height (m : Memory) : (setFbMemory m s).height = s.height := by unfold setFbMemory; split <;> rfl
@[simp] theorem setFbMemory_stride (m : Memory) : (setFbMemory m s).stride = s.stride := by unfold setFbMemory; split <;> rfl
@[simp] theorem setFbMemory_bpp (m : Memory) : (setFbMemory m s).bpp = s.bpp := by unfold setFbMemory; split <;> rfl
@[simp] theorem setFbMemory_fb (m : Memory) : (setFbMemory m s).fb = s.fb := by unfold setFbMemory; split <;> rfl
@[simp] theorem setFbMemory_renderControl (m : Memory) : (setFbMemory m s).renderControl = s.renderControl := by unfold setFbMemory; split <;> rfl
@[simp] theorem setFbMemory_renderZbuffer (m : Memory) : (setFbMemory m s).renderZbuffer = s.renderZbuffer := by unfold setFbMemory; split <;> rfl
@[simp] theorem setFbMemory_renderBlend (m : Memory) : (setFbMemory m s).renderBlend = s.renderBlend := by unfold setFbMemory; split <;> rfl
@[simp] theorem setFbMemory_dmaControl (m : Memory) : (setFbMemory m s).dmaControl = s.dmaControl := by unfold setFbMemory; split <;> rfl
@[simp] theorem setFbMemory_dmaSrc (m : Memory) : (setFbMemory m s).dmaSrc = s.dmaSrc := by unfold setFbMemory; split <;> rfl
@[simp] theorem setFbMemory_dmaDest (m : Memory) : (setFbMemory m s).dmaDest = s.dmaDest := by unfold setFbMemory; split <;> rfl
@[simp] theorem setFbMemory_dmaCount (m : Memory) : (setFbMemory m s).dmaCount = s.dmaCount := by unfold setFbMemory; split <;> rfl
@[simp] theorem setFbMemory_timerArmed (m : Memory) : (setFbMemory m s).timerArmed = s.timerArmed := by unfold setFbMemory; split <;> rfl
@[simp] theorem setFbMemory_displayStart (m : Memory) : (setFbMemory m s).displayStart = s.displayStart := by unfold setFbMemory; split <;> rfl
@[simp] theorem setFbMemory_crtVblank (m : Memory) : (setFbMemory m s).crtVblank = s.crtVblank := by unfold setFbMemory; split <;> rfl
@[simp] theorem setFbMemory_closed (m : Memory) : (setFbMemory m s).closed = s.closed := by unfold setFbMemory; split <;> rfl
@[simp] theorem setFbMemory_inbox (m : Memory) : (setFbMemory m s).inbox = s.inbox := by unfold setFbMemory; split <;> rfl
@[simp] theorem setFbMemory_out (m : Memory) : (setFbMemory m s).out = s.out := by unfold setFbMemory; split <;> rfl

end Sys2Proof.Machine
end

