-- ==== Sys2Proof/Laws/Registers.lean ====
section
/-! SUPPORT. The laws of the register file and of single bits: what a register, and a flag, reads after each
operation that writes registers. -/

namespace Sys2Proof.Machine

theorem key_lt (r : RegName) : r.key < 8192 := by
  have h1 := r.bank.isLt
  have h2 := r.word.isLt
  unfold RegName.key
  omega

theorem key_div (r : RegName) : r.key / 1024 = r.bank.toNat := by
  have := r.word.isLt
  unfold RegName.key
  omega

theorem key_inj {r q : RegName} : r.key = q.key ↔ r = q := by
  constructor
  · intro h
    have hb : r.bank = q.bank := BitVec.eq_of_toNat_eq (by rw [← key_div, ← key_div, h])
    have hw : r.word = q.word := BitVec.eq_of_toNat_eq (by unfold RegName.key at h; rw [hb] at h; omega)
    cases r; cases q; simp_all
  · rintro rfl; rfl

variable {s : State} {r q : RegName} {v : Word} {b : BitVec 3} {i j : Nat} {x : Bool}

-- whole registers

/-- A register after `REG[b][i] <- v`: that word the value, every other as before. -/
theorem getReg_setReg : getReg (setReg r v s) q = if r = q then v else getReg s q := by
  simp only [getReg, setReg_regs, cellsRead_write, key_inj]

@[simp] theorem getReg_setReg_self : getReg (setReg r v s) r = v := by simp [getReg_setReg]

theorem getReg_setReg_of_ne (h : r ≠ q) : getReg (setReg r v s) q = getReg s q := by simp [getReg_setReg, h]

/-- A register after a bank clear: 0 in the bank, every other as before. -/
theorem getReg_clearBank : getReg (clearBank b s) q = if q.bank = b then 0#32 else getReg s q := by
  simp only [getReg, clearBank_regs, cellsRead_clear, key_div, beq_iff_eq, BitVec.toNat_inj, regDefault]

/-- Only `regs` matters to a register read. -/
theorem getReg_congr {t : State} (h : t.regs = s.regs) : getReg t q = getReg s q := by simp [getReg, h]

@[simp] theorem getReg_emit (e : PortEvent) : getReg (emit e s) q = getReg s q := rfl
@[simp] theorem getReg_diag (e : Diag) : getReg (diag e s) q = getReg s q := rfl
@[simp] theorem getReg_returnData : getReg (returnData v s) q = getReg s q := rfl
@[simp] theorem getReg_armTimer : getReg (armTimer s) q = getReg s q := rfl
@[simp] theorem getReg_updateOpenSlot (f : Slot → Slot) : getReg (updateOpenSlot f s) q = getReg s q := rfl
@[simp] theorem getReg_buildGrid (w h : Nat) : getReg (buildGrid w h s) q = getReg s q := rfl
@[simp] theorem getReg_setFbMemory (m : Memory) : getReg (setFbMemory m s) q = getReg s q :=
  getReg_congr (setFbMemory_regs s m)

-- single bits

theorem bitOf_putBit (hi : i < 32) : bitOf (putBit v i x) j = if i = j then x else bitOf v j := by
  unfold bitOf putBit
  have one : ∀ k, (1#32).getLsbD k = decide (k = 0) := by
    intro k
    rcases k with _ | k
    · decide
    · simp [BitVec.getLsbD, Nat.testBit_succ]
  by_cases hj : j < 32
  · cases x
    · simp only [Bool.false_eq_true, if_false, BitVec.getLsbD_and, BitVec.getLsbD_not, BitVec.getLsbD_shiftLeft,
        one]
      rcases Nat.lt_trichotomy i j with h | h | h
      · have e1 : ¬ j < i := by omega
        have e2 : j - i ≠ 0 := by omega
        have e3 : i ≠ j := by omega
        simp [hj, e1, e2, e3]
      · subst h; simp [hj]
      · have e3 : i ≠ j := by omega
        simp [hj, h, e3]
    · simp only [if_true, BitVec.getLsbD_or, BitVec.getLsbD_shiftLeft, one]
      rcases Nat.lt_trichotomy i j with h | h | h
      · have e1 : ¬ j < i := by omega
        have e2 : j - i ≠ 0 := by omega
        have e3 : i ≠ j := by omega
        simp [hj, e1, e2, e3]
      · subst h; simp [hj]
      · have e3 : i ≠ j := by omega
        simp [hj, h, e3]
  · have e3 : i ≠ j := by omega
    rw [if_neg e3]
    rw [BitVec.getLsbD_of_ge _ _ (by omega), BitVec.getLsbD_of_ge _ _ (by omega)]

theorem getReg_setRegBit :
    getReg (setRegBit r i x s) q = if r = q then putBit (getReg s r) (bitPlace s.cfg r i) x else getReg s q :=
  getReg_setReg

theorem getReg_setStatus_of_ne (h : q ≠ regCoreStatus) : getReg (setStatus i x s) q = getReg s q :=
  getReg_setReg_of_ne fun e => h e.symm

/-- A bit of a register after it or another bit of it was changed. -/
theorem regBit_setRegBit (hi : i < 32) : regBit (setRegBit r i x s) r j = if i = j then x else regBit s r j := by
  unfold regBit namedBit
  rw [getReg_setRegBit, if_pos rfl, setRegBit_cfg, bitOf_putBit (bitPlace_lt hi)]
  simp only [bitPlace_inj]

/-- Only `regs` and the bit positions of `cfg` matter to a bit. -/
theorem regBit_congr {t : State} (h : t.regs = s.regs) (hc : t.cfg = s.cfg := by rfl) : regBit t r j = regBit s r j := by
  unfold regBit
  rw [getReg_congr h, hc]

theorem regBit_setReg_of_ne (h : r ≠ q) : regBit (setReg r v s) q j = regBit s q j := by
  unfold regBit
  rw [getReg_setReg_of_ne h, setReg_cfg]

/-- A status flag after `STATUS.<BIT> <- x`: that bit the value, every other as before. -/
theorem statusBit_setStatus (hi : i < 32) :
    statusBit (setStatus i x s) j = if i = j then x else statusBit s j := regBit_setRegBit hi

theorem statusBit_setReg_of_ne (h : r ≠ regCoreStatus) : statusBit (setReg r v s) j = statusBit s j :=
  regBit_setReg_of_ne h

theorem statusBit_setRegBit_of_ne (h : r ≠ regCoreStatus) : statusBit (setRegBit r i x s) j = statusBit s j :=
  statusBit_setReg_of_ne h

theorem statusBit_clearBank (h : b ≠ bankCore) : statusBit (clearBank b s) j = statusBit s j := by
  unfold statusBit regBit
  rw [getReg_clearBank, if_neg, clearBank_cfg]
  exact fun e => h e.symm

theorem statusBit_congr {t : State} (h : t.regs = s.regs) (hc : t.cfg = s.cfg := by rfl) :
    statusBit t j = statusBit s j := regBit_congr h hc

/-- The words of `REG` right after a full reset (R56). -/
theorem getReg_of_seedRegs {p : Params} (h : s.regs = seedRegs p) :
    getReg s q =
      if q = regCoreId then p.chipId else if q = regCoreRevision then p.chipRevision
      else if q = regCoreStatus then statusSeed p else if q = regCoreConfig then p.configDefault
      else if q = regTexControl then p.texControlDefault else if q = regTexFormat then p.texFormatDefault
      else if q = regTexFilter then p.texFilterDefault else if q = regRenderZbuffer then p.zbufferDefault
      else if q = regRenderBlend then p.blendDefault else 0#32 := by
  unfold getReg
  rw [h]
  simp only [seedRegs, List.foldl, cellsRead_write, key_inj, cellsRead_nil, regDefault, eq_comm (b := q)]
  by_cases h1 : q = regCoreId; · subst h1; rfl
  by_cases h2 : q = regCoreRevision; · subst h2; rfl
  by_cases h3 : q = regCoreStatus; · subst h3; rfl
  by_cases h4 : q = regCoreConfig; · subst h4; rfl
  by_cases h5 : q = regTexControl; · subst h5; rfl
  by_cases h6 : q = regTexFormat; · subst h6; rfl
  by_cases h7 : q = regTexFilter; · subst h7; rfl
  by_cases h8 : q = regRenderZbuffer; · subst h8; rfl
  simp only [h1, h2, h3, h4, h5, h6, h7, h8, if_false]

/-- The status flags right after a full reset: FIFO_EMPTY alone (R33, R56). -/
theorem bitOf_statusSeed (p : Params) (i : Nat) : namedBit p regCoreStatus (statusSeed p) i = decide (i = bitFifoEmpty) := by
  unfold namedBit statusSeed
  rw [bitOf_putBit (bitPlace_lt (by decide))]
  simp [bitOf, eq_comm]

end Sys2Proof.Machine
end

