-- ==== Sys2Proof/Laws/Outcome.lean ====
section
/-! SUPPORT. How operations compose, and the three ways a step ends. -/

namespace Sys2Proof.Machine

variable {o : Result} {f : State → Result} {s t : State}

@[simp] theorem andThen_next : andThen (.next s) f = f s := rfl
@[simp] theorem andThen_refused (r : Refusal) : andThen (.refused r) f = .refused r := rfl
@[simp] theorem andThen_fault (r : Fault) : andThen (.fault r) f = .fault r := rfl

/-- A composition completes when its first part does and then its second. -/
theorem andThen_eq_next : andThen o f = .next t ↔ ∃ s, o = .next s ∧ f s = .next t := by
  cases o <;> simp [andThen]

/-- The block has no fault state (R345). -/
theorem outcome_cases (o : Result) : (∃ t, o = .next t) ∨ ∃ r, o = .refused r := by
  cases o with
  | next t => exact .inl ⟨t, rfl⟩
  | fault r => cases r
  | refused r => exact .inr ⟨r, rfl⟩

theorem andThen_assoc {g : State → Result} : andThen (andThen o f) g = andThen o fun s => andThen (f s) g := by
  cases o <;> rfl

/-- A step with an event waiting is that event's step, with the event taken. -/
theorem step_of_inbox {e : HostEvent} {rest : List HostEvent} (h : s.inbox = e :: rest) :
    step s = hostStep e { s with inbox := rest } := by
  simp [step, takeEvent, h]

/-- What a step that answers next did: it took the oldest event, which was admitted, and ran it. -/
theorem step_eq_next (h : step s = .next t) :
    ∃ e rest, s.inbox = e :: rest ∧ admitted e { s with inbox := rest } = true ∧
      runEvent e { s with inbox := rest } = .next t := by
  cases hi : s.inbox with
  | nil => simp [step, takeEvent, hi] at h
  | cons e rest =>
    rw [step_of_inbox hi, hostStep] at h
    split at h
    · exact ⟨e, rest, rfl, ‹_›, h⟩
    · cases h

end Sys2Proof.Machine
end

