-- ==== Sys2Proof/Laws/Binner.lean ====
section
/-! SUPPORT. What finalize and the binner can do. -/

namespace Sys2Proof.Machine

theorem length_appendToTiles (p : Nat) (ts : List Nat) (tiles : List Tile) :
    (appendToTiles p ts tiles).length = tiles.length := by
  induction ts generalizing tiles with
  | nil => rfl
  | cons t ts ih => simp [appendToTiles, ih]

/-- A tile after the appends: the polygon at the end of its list once for each time it is named, its
rectangle as before (R244). -/
theorem getElem?_appendToTiles (p : Nat) (ts : List Nat) (tiles : List Tile) (i : Nat) :
    (appendToTiles p ts tiles)[i]? =
      (tiles[i]?).map fun t => { t with list := t.list ++ List.replicate (ts.count i) p } := by
  induction ts generalizing tiles with
  | nil => simp [appendToTiles]
  | cons a ts ih =>
    rw [appendToTiles, ih, List.getElem?_modify]
    by_cases h : a = i
    · subst h
      cases tiles[a]? <;> simp [List.replicate_succ]
    · simp [h]

/-- Every reference of a tile after the appends is an old one or the polygon. -/
theorem mem_appendToTiles {p : Nat} {ts : List Nat} {tiles : List Tile} {t : Tile} {q : Nat}
    (ht : t ∈ appendToTiles p ts tiles) (hq : q ∈ t.list) : q = p ∨ ∃ t0 ∈ tiles, q ∈ t0.list := by
  obtain ⟨i, hi⟩ := List.getElem?_of_mem ht
  rw [getElem?_appendToTiles] at hi
  obtain ⟨t0, h0, rfl⟩ := Option.map_eq_some_iff.1 hi
  simp only [List.mem_append] at hq
  rcases hq with hq | hq
  · exact .inr ⟨t0, List.mem_of_getElem? h0, hq⟩
  · exact .inl (List.eq_of_mem_replicate hq)

theorem mem_natSpan {lo hi k : Nat} : k ∈ natSpan lo hi ↔ lo ≤ k ∧ k ≤ hi := by
  simp only [natSpan, List.mem_map, List.mem_range]
  constructor
  · rintro ⟨i, hi, rfl⟩; omega
  · rintro ⟨h1, h2⟩; exact ⟨k - lo, by omega, by omega⟩

/-- A tile index of R243 lies in the grid. -/
theorem tileIndex_lt {q : Rat} {ts tiles : Nat} (h : 0 < tiles) : tileIndex q ts tiles < tiles := by
  unfold tileIndex
  have h1 : min ((tiles : Int) - 1) (q.floor / (ts : Int)) ≤ (tiles : Int) - 1 := min_le_left _ _
  have h2 : max 0 (min ((tiles : Int) - 1) (q.floor / (ts : Int))) ≤ (tiles : Int) - 1 := max_le (by omega) h1
  omega

variable {s : State}

/-- What finalize can do: drop the polygon and log it, or store it and bin it (R240, R246). -/
theorem finalizePolygon_cases (s : State) :
    (s.polyCount = s.cfg.maxPolygons ∧ finalizePolygon s = diag .polyOverflow s) ∨
    (s.polyCount ≠ s.cfg.maxPolygons ∧
      finalizePolygon s = { s with
        polys := s.polys ++ [assembledPolygon s]
        tiles := appendToTiles s.polyCount (binTiles s.tileSize s.tilesX s.tilesY s.slots) s.tiles }) := by
  unfold finalizePolygon
  by_cases h : s.polyCount = s.cfg.maxPolygons
  · exact .inl ⟨h, if_pos h⟩
  · exact .inr ⟨h, if_neg h⟩

/-- The z-sort key lies in 0..4094, however it is rounded (R241). -/
theorem zkey_le (mode : RoundingMode) (a b c : BitVec 12) : zkey mode a b c ≤ 4094 := by
  have := a.isLt
  have := b.isLt
  have := c.isLt
  unfold zkey roundOver4096 zkeyScale
  cases mode <;> simp only <;> (try split) <;> omega

end Sys2Proof.Machine
end

