-- ==== Sys2Proof/Laws/Dma.lean ====
section
/-! SUPPORT. What a DMA copy leaves in memory. -/

namespace Sys2Proof.Machine

variable {old m : Memory} {src dst n a : Nat}

/-- The snapshot copy: the bytes of the destination are those the source had, every other byte as before
(R303). -/
theorem memRead_copySnapshot :
    memRead (copySnapshot old src dst n m) a =
      if dst ≤ a ∧ a < dst + n then memRead old (src + (a - dst)) else memRead m a := by
  induction n with
  | zero => rw [if_neg (by omega)]; rfl
  | succ n ih =>
    rw [copySnapshot, memRead_memWrite, ih]
    rcases Nat.lt_trichotomy (dst + n) a with h | h | h
    · rw [if_neg (by omega), if_neg (by omega), if_neg (by omega)]
    · subst h; rw [if_pos rfl, if_pos (by omega), show dst + n - dst = n by omega]
    · rw [if_neg (by omega)]
      by_cases hd : dst ≤ a
      · rw [if_pos (by omega), if_pos (by omega)]
      · rw [if_neg (by omega), if_neg (by omega)]

theorem memWf_copySnapshot (h : Memory.wf m = true) : Memory.wf (copySnapshot old src dst n m) = true := by
  induction n with
  | zero => exact h
  | succ n ih => exact memWf_memWrite ih

/-- The forward copy writes no byte outside the destination. -/
theorem memRead_copyForward_of_outside (h : ¬(dst ≤ a ∧ a < dst + n)) :
    memRead (copyForward src dst n m) a = memRead m a := by
  induction n with
  | zero => rfl
  | succ n ih =>
    simp only [copyForward]
    rw [memRead_memWrite, if_neg (by omega), ih (by omega)]

theorem memWf_copyForward (h : Memory.wf m = true) : Memory.wf (copyForward src dst n m) = true := by
  induction n with
  | zero => exact h
  | succ n ih => exact memWf_memWrite ih

variable {how : DmaOverlap}

/-- Either copy leaves every byte outside the destination as it was. -/
theorem memRead_dmaCopy_of_outside (h : ¬(dst ≤ a ∧ a < dst + n)) :
    memRead (dmaCopy how src dst n m) a = memRead m a := by
  cases how
  · exact memRead_copySnapshot.trans (if_neg h)
  · exact memRead_copyForward_of_outside h

/-- Either copy keeps the canonical form. -/
theorem memWf_dmaCopy (h : Memory.wf m = true) : Memory.wf (dmaCopy how src dst n m) = true := by
  cases how
  · exact memWf_copySnapshot h
  · exact memWf_copyForward h

variable {s t : State}

/-- What a DMA start can do (R300 to R304): a copy, or a skip with its diagnostic, and the same conclusion. -/
theorem dmaStart_eq_next (h : dmaStart s = .next t) :
    ∃ s1, t = dmaConclude s1 ∧
      ((dmaValid (dmaBegin s) = true ∧ dmaOverrun (dmaBegin s) = false ∧
          ∃ v, v = dmaCopy s.dmaOverlap (dmaSource (dmaBegin s)) (dmaTarget (dmaBegin s))
              (dmaSize (dmaBegin s)) s.vram ∧
            s1 = { dmaBegin s with vram := v }) ∨
       (dmaValid (dmaBegin s) = false ∧
          s1 = diag (.dmaRange (dmaSource (dmaBegin s)) (dmaTarget (dmaBegin s)) (dmaSize (dmaBegin s)))
            (dmaBegin s))) := by
  unfold dmaStart at h
  obtain ⟨s1, h1, h2⟩ := andThen_eq_next.1 h
  refine ⟨s1, by simpa using h2.symm, ?_⟩
  unfold dmaTransfer at h1
  split_ifs at h1 with hv ho
  · cases h1; exact .inl ⟨hv, by simpa using ho, _, rfl, rfl⟩
  · cases h1; exact .inr ⟨by simpa using hv, rfl⟩

/-- The parameters of a transfer do not depend on the busy flags it raises. -/
theorem dma_parameters_begin (s : State) :
    dmaSource (dmaBegin s) = dmaSource s ∧ dmaTarget (dmaBegin s) = dmaTarget s ∧
      dmaSize (dmaBegin s) = dmaSize s := by
  have key : ∀ q, q ≠ regDmaStatus → q ≠ regCoreStatus → getReg (dmaBegin s) q = getReg s q := by
    intro q h1 h2
    unfold dmaBegin
    rw [getReg_setRegBit, if_neg fun e => h1 e.symm, getReg_setStatus_of_ne h2]
  unfold dmaSource dmaTarget dmaSize
  rw [key _ (by decide) (by decide), key _ (by decide) (by decide), key _ (by decide) (by decide)]
  exact ⟨rfl, rfl, rfl⟩

end Sys2Proof.Machine
end

