-- ==== Sys2Proof/Laws/FrontEnd.lean ====
section
/-! SUPPORT. What the operations of the register front-end and of the timer leave in registers and flags. -/

namespace Sys2Proof.Machine

variable {s t : State}

/-- A register write that keeps its value and updates only other state. -/
theorem storesWith_of_setReg {r : RegName} {v : Word} {s : State} {upd : State → State} {o : Result} (hr : r ≠ regCoreStatus)
    (ho : o = .next (upd (setReg r v s)))
    (hregs : (upd (setReg r v s)).regs = (setReg r v s).regs)
    (hcfg : (upd (setReg r v s)).cfg = s.cfg) (hm : MemSame s (upd (setReg r v s))) : StoresWith r v upd s o := by
  refine ⟨_, ho, ?_, ?_, ?_, hm, ?_⟩
  · rw [getReg_congr hregs]; exact getReg_setReg_self
  · intro q hq
    rw [getReg_congr hregs, getReg_setReg_of_ne]
    rintro rfl; exact hq (by simp)
  · intro i _
    rw [statusBit_congr hregs hcfg, statusBit_setReg_of_ne hr]
  · rw [hregs]; rfl

theorem MemSame.refl (s : State) : MemSame s s := ⟨fun _ => rfl, fun _ => rfl, fun _ => rfl⟩

theorem tileSizeOf_eq (v : Word) : tileSizeOf v = 8 * 2 ^ (v.toNat % 4) := by
  unfold tileSizeOf
  rw [Nat.shiftLeft_eq]
  simp [BitVec.extractLsb'_toNat]

theorem decodeTexFormat_eq (p : Params) (v : Word) : decodeTexFormat p v =
    ⟨v.extractLsb' p.bits.texFmt.toNat 4, 8 * 2 ^ (v.toNat >>> p.bits.texSizeCode.toNat % 8),
      8 * 2 ^ (v.toNat >>> p.bits.texSizeCode.toNat % 8)⟩ := by
  unfold decodeTexFormat
  simp [Nat.shiftLeft_eq, BitVec.extractLsb'_toNat]

theorem slotAt_putSlotAt (vs : Slots) (i j : Fin 3) (x : Slot) : slotAt (putSlotAt vs i x) j = if j = i then x else slotAt vs j := by
  fin_cases i <;> fin_cases j <;> rfl

/-- What a partial reset leaves in a register (R137). -/
theorem getReg_clearBankIf {s : State} {v : Word} {i : Nat} {b : BitVec 3} {q : RegName} :
    getReg (clearBankIf v i b s) q = if q.bank = b ∧ namedBit s.cfg regCoreReset v i = true then 0#32 else getReg s q := by
  unfold clearBankIf
  split_ifs with h1 h2 h2
  · rw [getReg_clearBank, if_pos h2.1]
  · rw [getReg_clearBank, if_neg fun e => h2 ⟨e, h1⟩]
  · exact absurd h2.2 h1
  · rfl

@[simp] theorem clearBankIf_cfg {s : State} {v : Word} {i : Nat} {b : BitVec 3} : (clearBankIf v i b s).cfg = s.cfg := by
  unfold clearBankIf; split_ifs <;> rfl

theorem clearBankIf_rest {s : State} {v : Word} {i : Nat} {b : BitVec 3} :
   clearBankIf v i b s = { s with regs := (clearBankIf v i b s).regs } := by
  unfold clearBankIf; split_ifs <;> rfl

/-- What the reset of bank render leaves in a register (R152). -/
theorem getReg_renderBankReset {q : RegName} (hq : q ≠ regCoreStatus) :
    getReg (renderBankReset s) q = if q.bank = bankRender then 0#32 else getReg s q := by
  unfold renderBankReset clearRenderBusy
  rw [getReg_setStatus_of_ne hq, getReg_setStatus_of_ne hq, getReg_clearBank]

/-- What it leaves of the flags (R152). -/
theorem statusBit_renderBankReset {i : Nat} : statusBit (renderBankReset s) i =
    if i = bitRenderBusy ∨ i = bitRenderRunning then false else statusBit s i := by
  unfold renderBankReset clearRenderBusy
  rw [statusBit_setStatus (by decide), statusBit_setStatus (by decide), statusBit_clearBank (by decide)]
  simp only [eq_comm (a := i)]
  split_ifs <;> first | rfl | tauto

theorem bank_ne_status {b : BitVec 3} (hb : b ≠ bankCore) (w : BitVec 10) : RegName.mk b w ≠ regCoreStatus :=
  fun e => hb (congrArg RegName.bank e)

/-- What the reset of bank dma leaves of the flags (R161). -/
theorem statusBit_dmaBankReset {i : Nat} : statusBit (dmaBankReset s) i = if i = bitDmaBusy then false else statusBit s i := by
  unfold dmaBankReset
  rw [statusBit_setStatus (by decide), statusBit_clearBank (by decide)]
  simp only [eq_comm (a := i)]

/-- What it leaves in a register (R161). -/
theorem getReg_dmaBankReset {q : RegName} (hq : q ≠ regCoreStatus) :
    getReg (dmaBankReset s) q = if q.bank = bankDma then 0#32 else getReg s q := by
  unfold dmaBankReset
  rw [getReg_setStatus_of_ne hq, getReg_clearBank]

/-- A start reads its parameters as they stood before the write of DMA.CONTROL (R301). -/
theorem dma_parameters_start (v : Word) (s : State) : let x := dmaBegin { setReg regDmaControl v s with dmaControl := v }
    dmaSource x = dmaSource s ∧ dmaTarget x = dmaTarget s ∧ dmaSize x = dmaSize s := by
  obtain ⟨h1, h2, h3⟩ := dma_parameters_begin { setReg regDmaControl v s with dmaControl := v }
  have key : ∀ q, q ≠ regDmaControl → getReg { setReg regDmaControl v s with dmaControl := v } q = getReg s q :=
    fun q hq => getReg_setReg_of_ne (Ne.symm hq)
  refine ⟨h1.trans ?_, h2.trans ?_, h3.trans ?_⟩
  · unfold dmaSource; rw [key _ (by decide)]
  · unfold dmaTarget; rw [key _ (by decide)]
  · unfold dmaSize; rw [key _ (by decide)]

/-- The flags after a timer fire (R316). -/
theorem statusBit_fireFlags (i : Nat) : statusBit (fireFlags s) i =
    if i = bitRenderComplete then true else if i = bitRenderRunning ∨ i = bitRenderBusy ∨ i = bitDmaBusy then false else statusBit s i := by
  have : statusBit (fireFlags s) i = statusBit (setStatus bitRenderComplete true (setStatus bitDmaBusy false
    (setStatus bitRenderBusy false (setStatus bitRenderRunning false s)))) i := by
    unfold fireFlags raiseCompletion
    split_ifs
    · exact statusBit_setRegBit_of_ne (by decide)
    · rfl
  rw [this, statusBit_setStatus (by decide), statusBit_setStatus (by decide), statusBit_setStatus (by decide), statusBit_setStatus (by decide)]
  simp only [eq_comm (a := i)]
  split_ifs <;> first | rfl | tauto

/-- The registers after a timer fire (R316). -/
theorem getReg_fireFlags {q : RegName} (h1 : q ≠ regCoreStatus) (h2 : q ≠ regIntStatus) : getReg (fireFlags s) q = getReg s q := by
  have : getReg (fireFlags s) q = getReg (setStatus bitRenderComplete true (setStatus bitDmaBusy false
    (setStatus bitRenderBusy false (setStatus bitRenderRunning false s)))) q := by
    unfold fireFlags raiseCompletion
    split_ifs
    · rw [getReg_setRegBit, if_neg (Ne.symm h2)]
    · rfl
  rw [this, getReg_setStatus_of_ne h1, getReg_setStatus_of_ne h1, getReg_setStatus_of_ne h1, getReg_setStatus_of_ne h1]

end Sys2Proof.Machine
end

