-- ==== Sys2Proof/Laws/Raster.lean ====
section
/-! SUPPORT. What a render can do: the depth sort, the canvas loops, and the one lemma about
`render_scene`. -/

namespace Sys2Proof.Machine

-- the depth sort

theorem mem_insertDesc {key : Nat → Nat} {p q : Nat} {l : List Nat} :
    q ∈ insertDesc key p l ↔ q = p ∨ q ∈ l := by
  induction l with
  | nil => simp [insertDesc]
  | cons x l ih =>
    simp only [insertDesc]
    split <;> simp [ih]
    tauto

theorem mem_sortDescending {key : Nat → Nat} {q : Nat} {l : List Nat} :
    q ∈ sortDescending key l ↔ q ∈ l := by
  induction l with
  | nil => rfl
  | cons x l ih => simp [sortDescending, mem_insertDesc, ih]

-- the canvas

/-- ZBUF and the memory of FB, both in canonical form. -/
def Canvas.wf (c : Canvas) : Prop := cellsWf depthClear c.zbuf = true ∧ Memory.wf c.mem = true

variable {view : View} {p : Polygon} {c c' : Canvas} {px py : Nat}

/-- What one pixel store can do: nothing at the depths that write nothing, else the pixel's bytes at its
offset, which lie inside FB. -/
theorem writePixel_cases {k : Rgba} {m m' : Memory} (h : writePixel view px py k m = some m') :
    (pixelBytes view.num view.bpp k = [] ∧ m' = m) ∨
    (pixelOffset view px py + (pixelBytes view.num view.bpp k).length ≤ view.limit ∧
      m' = memWriteBytes m (view.base + pixelOffset view px py) (pixelBytes view.num view.bpp k)) := by
  unfold writePixel at h
  simp only at h
  split_ifs at h with h1 h2
  · exact .inl ⟨h1, by simpa using h.symm⟩
  · exact .inr ⟨h2, by simpa using h.symm⟩

theorem depthPassAndWrite_cases {w : Weights} {z z' : Cells 16}
    (h : depthPassAndWrite view p w px py z = some z') :
    z' = cellsWrite depthClear z (py * view.width + px) (depth16 view.num p.v w) := by
  unfold depthPassAndWrite at h
  simp only at h
  split_ifs at h
  simpa using h.symm

/-- What one pixel of one polygon can do: nothing, or a depth written and a pixel stored. -/
theorem drawPixel_cases (h : drawPixel view p px py c = some c') :
    c' = c ∨ ∃ m, covered (weightsAt view p.v px py) = true ∧
      writePixel view px py (shade view p (weightsAt view p.v px py)) c.mem = some m ∧
      c' = ⟨cellsWrite depthClear c.zbuf (py * view.width + px) (depth16 view.num p.v (weightsAt view p.v px py)), m⟩ := by
  unfold drawPixel at h
  simp only at h
  split at h
  · rename_i hc
    split at h
    · exact .inl (by simpa using h.symm)
    · rename_i z hz
      rw [Option.map_eq_some_iff] at h
      obtain ⟨m, hm, rfl⟩ := h
      exact .inr ⟨m, hc, hm, by rw [depthPassAndWrite_cases hz]⟩
  · exact .inl (by simpa using h.symm)

/-- A property of the canvas that every pixel of a box keeps is kept by the polygon's loop. -/
theorem drawPixels_induct {P : Canvas → Prop} {qs : List (Nat × Nat)}
    (step : ∀ q ∈ qs, ∀ c c', P c → drawPixel view p q.1 q.2 c = some c' → P c') (hc : P c)
    (h : drawPixels view p qs c = some c') : P c' := by
  induction qs generalizing c with
  | nil => simpa [drawPixels] using (by simpa [drawPixels] using h : c = c') ▸ hc
  | cons q qs ih =>
    unfold drawPixels at h
    split at h
    · cases h
    · rename_i c1 h1
      exact ih (fun q' hq' => step q' (List.mem_cons_of_mem _ hq')) (step q (by simp) _ _ hc h1) h

/-- The pixels of a box lie inside its bounds. -/
theorem mem_boxPixels {b : Box} {q : Nat × Nat} (hx : 0 ≤ b.x0) (hy : 0 ≤ b.y0) :
    q ∈ boxPixels b ↔ b.x0 ≤ q.1 ∧ (q.1 : Int) ≤ b.x1 ∧ b.y0 ≤ q.2 ∧ (q.2 : Int) ≤ b.y1 := by
  obtain ⟨px, py⟩ := q
  simp only [boxPixels, intSpan, List.mem_flatMap, List.mem_map, List.mem_range, Prod.mk.injEq]
  constructor
  · rintro ⟨_, ⟨i, hi, rfl⟩, _, ⟨j, hj, rfl⟩, rfl, rfl⟩
    omega
  · rintro ⟨h1, h2, h3, h4⟩
    exact ⟨py, ⟨py - b.y0.toNat, by omega, by omega⟩, px, ⟨px - b.x0.toNat, by omega, by omega⟩, rfl, rfl⟩

/-- Every pixel a polygon is rasterized over lies inside the display (R260). -/
theorem drawBox_inside {t : Tile} {v : Slots} {q : Nat × Nat} (h : q ∈ boxPixels (drawBox view t v)) :
    q.1 < view.width ∧ q.2 < view.height := by
  have hx : 0 ≤ (drawBox view t v).x0 := by
    unfold drawBox clipToRect bbox; split <;> simp
  have hy : 0 ≤ (drawBox view t v).y0 := by
    unfold drawBox clipToRect bbox; split <;> simp
  have hx1 : (drawBox view t v).x1 ≤ (view.width : Int) - 1 := by
    unfold drawBox clipToRect bbox; split <;> simp
  have hy1 : (drawBox view t v).y1 ≤ (view.height : Int) - 1 := by
    unfold drawBox clipToRect bbox; split <;> simp
  rw [mem_boxPixels hx hy] at h
  omega

/-- A property of the canvas that every pixel of the display keeps, for every polygon drawn, is kept by the
whole walk over tiles. -/
theorem renderTiles_induct {P : Canvas → Prop} {polys : List Polygon} {ts : List Tile}
    (step : ∀ p ∈ polys, culled view p = false → degenerate view p.v = false → ∀ px py, px < view.width →
      py < view.height → ∀ c c', P c → drawPixel view p px py c = some c' → P c')
    (hc : P c) (h : renderTiles view polys ts c = some c') : P c' := by
  have poly : ∀ p ∈ polys, ∀ t c c', P c → renderPolygon view p t c = some c' → P c' := by
    intro p hp t c c' hc h
    unfold renderPolygon at h
    split_ifs at h with h1 h2
    · exact (by simpa using h : c = c') ▸ hc
    · exact (by simpa using h : c = c') ▸ hc
    · exact drawPixels_induct (fun q hq c c' => step p hp (by simpa using h1) (by simpa using h2) q.1 q.2
        (drawBox_inside hq).1 (drawBox_inside hq).2 c c') hc h
  have refs : ∀ l t c c', P c → renderRefs view polys t l c = some c' → P c' := by
    intro l t
    induction l with
    | nil => intro c c' hc h; exact (by simpa [renderRefs] using h : c = c') ▸ hc
    | cons q l ih =>
      intro c c' hc h
      unfold renderRefs at h
      split at h
      · exact ih c c' hc h
      · rename_i Q hQ
        split at h
        · cases h
        · rename_i c1 h1
          exact ih c1 c' (poly Q (List.mem_of_getElem? hQ) t c c1 hc h1) h
  induction ts generalizing c with
  | nil => exact (by simpa [renderTiles] using h : c = c') ▸ hc
  | cons t ts ih =>
    unfold renderTiles at h
    split at h
    · cases h
    · rename_i c1 h1
      exact ih (refs _ t c c1 hc h1) h

/-- The walk never sticks when every pixel of the display can be drawn. -/
theorem renderTiles_isSome {polys : List Polygon} {ts : List Tile}
    (step : ∀ p ∈ polys, ∀ px py, px < view.width → py < view.height → ∀ c,
      (drawPixel view p px py c).isSome = true) :
    (renderTiles view polys ts c).isSome = true := by
  have pixels : ∀ p ∈ polys, ∀ qs : List (Nat × Nat), (∀ q ∈ qs, q.1 < view.width ∧ q.2 < view.height) →
      ∀ c, (drawPixels view p qs c).isSome = true := by
    intro p hp qs
    induction qs with
    | nil => intro _ c; rfl
    | cons q qs ih =>
      intro hq c
      obtain ⟨c1, h1⟩ := Option.isSome_iff_exists.1 (step p hp q.1 q.2 (hq q (by simp)).1 (hq q (by simp)).2 c)
      simp only [drawPixels, h1]
      exact ih (fun q' h' => hq q' (List.mem_cons_of_mem _ h')) c1
  have refs : ∀ l t c, (renderRefs view polys t l c).isSome = true := by
    intro l t
    induction l with
    | nil => intro c; rfl
    | cons q l ih =>
      intro c
      unfold renderRefs
      split
      · exact ih c
      · rename_i Q hQ
        have : (renderPolygon view Q t c).isSome = true := by
          unfold renderPolygon
          split_ifs
          · rfl
          · rfl
          · exact pixels Q (List.mem_of_getElem? hQ) _ (fun q hq => drawBox_inside hq) c
        obtain ⟨c1, h1⟩ := Option.isSome_iff_exists.1 this
        rw [h1]
        exact ih c1
  induction ts generalizing c with
  | nil => rfl
  | cons t ts ih =>
    obtain ⟨c1, h1⟩ := Option.isSome_iff_exists.1 (refs (sortDescending (polyKey polys) t.list) t c)
    simp only [renderTiles, h1]
    exact ih

theorem renderTiles_wf {polys : List Polygon} {ts : List Tile} (hc : c.wf)
    (h : renderTiles view polys ts c = some c') : c'.wf := by
  refine renderTiles_induct (P := Canvas.wf) (fun p _ _ _ px py _ _ c c' hc h => ?_) hc h
  rcases drawPixel_cases h with rfl | ⟨m, -, hm, rfl⟩
  · exact hc
  · refine ⟨cellsWf_write hc.1, ?_⟩
    rcases writePixel_cases hm with ⟨-, rfl⟩ | ⟨-, rfl⟩
    · exact hc.2
    · exact memWf_memWriteBytes _ hc.2

/-- A pixel has at most `bpp / 8` bytes. -/
theorem length_pixelBytes (n : Numerics) (bpp : Nat) (k : Rgba) :
    (pixelBytes n bpp k).length = if bpp = 16 ∨ bpp = 24 ∨ bpp = 32 then bpp / 8 else 0 := by
  unfold pixelBytes
  split_ifs <;> simp_all

-- render_scene

variable {s t : State}

/-- Everything `render_scene` does: the canvas the walk leaves, and the end of the frame. -/
theorem renderScene_eq_next (h : renderScene s = .next t) :
    ∃ c, renderTiles (viewOf s) s.polys s.tiles ⟨[], fbMemory s⟩ = some c ∧ t = finishFrame c s := by
  unfold renderScene at h
  split at h
  · cases h
  · rename_i c hc
    exact ⟨c, hc, by simpa using h.symm⟩

/-- Under the host's promise about FB every pixel store lies inside it. -/
theorem drawPixel_isSome (hfb : FbCovers s) (hx : px < s.width) (hy : py < s.height) (c : Canvas) :
    (drawPixel (viewOf s) p px py c).isSome = true := by
  have key : ∀ k m, (writePixel (viewOf s) px py k m).isSome = true := by
    intro k m
    unfold writePixel
    simp only
    split_ifs with h1 h2
    · rfl
    · rfl
    · exfalso
      apply h2
      rw [length_pixelBytes]
      have hne : s.bpp = 16 ∨ s.bpp = 24 ∨ s.bpp = 32 := by
        by_contra hcon
        apply h1
        apply List.eq_nil_of_length_eq_zero
        rw [length_pixelBytes]; exact if_neg hcon
      show pixelOffset (viewOf s) px py + (if s.bpp = 16 ∨ s.bpp = 24 ∨ s.bpp = 32 then s.bpp / 8 else 0) ≤ fbLimit s
      rw [if_pos hne]
      have hb : ((s.height - 1) * s.stride + s.width) * (s.bpp / 8) ≤ fbLimit s := by
        rcases hfb with h | h | h | h
        · omega
        · omega
        · omega
        · exact h
      refine Nat.le_trans ?_ hb
      show (py * s.stride + px) * (s.bpp / 8) + s.bpp / 8 ≤ _
      have h3 : py * s.stride ≤ (s.height - 1) * s.stride := Nat.mul_le_mul_right _ (by omega)
      calc (py * s.stride + px) * (s.bpp / 8) + s.bpp / 8 = (py * s.stride + px + 1) * (s.bpp / 8) := by ring
        _ ≤ _ := Nat.mul_le_mul_right _ (by omega)
  unfold drawPixel
  simp only
  split
  · split
    · rfl
    · simpa using key _ _
  · rfl

/-- A render completes under the host's promise about FB (U5). -/
theorem renderScene_completes (hfb : FbCovers s) : ∃ t, renderScene s = .next t := by
  have := renderTiles_isSome (view := viewOf s) (polys := s.polys) (ts := s.tiles) (c := ⟨[], fbMemory s⟩)
    fun p _ px py hx hy c => drawPixel_isSome hfb hx hy c
  obtain ⟨c, hc⟩ := Option.isSome_iff_exists.1 this
  exact ⟨finishFrame c s, by simp [renderScene, hc]⟩

@[simp] theorem getReg_finishFrame (c : Canvas) (q : RegName) : getReg (finishFrame c s) q = getReg s q :=
  getReg_congr (by simp [finishFrame])

end Sys2Proof.Machine
end

