-- ==== Sys2Proof/Laws/Queue.lean ====
section
/-! SUPPORT. What the commands, the drain and a push can do. -/

namespace Sys2Proof.Machine

variable {s t : State}

-- status flags that a command may write

@[simp] theorem raiseRenderBusy_eq (s : State) :
    raiseRenderBusy s = { s with regs := (raiseRenderBusy s).regs } := rfl

theorem statusBit_raiseRenderBusy {i : Nat} (h2 : i ≠ bitRenderBusy) (h3 : i ≠ bitRenderRunning) :
    statusBit (raiseRenderBusy s) i = statusBit s i := by
  unfold raiseRenderBusy
  rw [statusBit_setStatus (by decide), if_neg (Ne.symm h3), statusBit_setStatus (by decide), if_neg (Ne.symm h2)]

theorem getReg_raiseRenderBusy_of_ne {q : RegName} (h : q ≠ regCoreStatus) :
    getReg (raiseRenderBusy s) q = getReg s q := by
  unfold raiseRenderBusy
  rw [getReg_setStatus_of_ne h, getReg_setStatus_of_ne h]

/-- What no command changes, and how the rest may change (R210 to R219): the FIFO, the parameters, the
display, the grid's shape, the mirrors of registers, the inputs, and every register but the two render flags
of REG.CORE.STATUS; the timer may be armed and is never disarmed. -/
structure CommandKeeps (s t : State) : Prop where
  rest : t = { s with
    regs := t.regs, slots := t.slots, vcount := t.vcount, texAddr := t.texAddr,
    texFormatBits := t.texFormatBits, polys := t.polys, tiles := t.tiles, zbuf := t.zbuf, zfill := t.zfill,
    timerArmed := t.timerArmed, hostMem := t.hostMem, vram := t.vram, out := t.out }
  regs : ∀ q, q ≠ regCoreStatus → getReg t q = getReg s q
  status : ∀ i, i ≠ bitRenderBusy → i ≠ bitRenderRunning → statusBit t i = statusBit s i
  armed : s.timerArmed = true → t.timerArmed = true

theorem CommandKeeps.refl (s : State) : CommandKeeps s s := ⟨rfl, fun _ _ => rfl, fun _ _ _ => rfl, id⟩

theorem finalizePolygon_keeps (s : State) (n : Fin 3) : CommandKeeps s { finalizePolygon s with vcount := n } := by
  rcases finalizePolygon_cases s with ⟨-, e⟩ | ⟨-, e⟩ <;> rw [e] <;>
    exact ⟨rfl, fun _ _ => rfl, fun _ _ _ => rfl, id⟩

/-- Every command keeps what `CommandKeeps` says. -/
theorem dispatch_keeps {c : CmdId} {d : Word} (h : dispatch c d s = .next t) : CommandKeeps s t := by
  unfold dispatch at h
  split_ifs at h
  · unfold execCmdVertex at h
    simp only at h
    split_ifs at h
    · cases h
      have := finalizePolygon_keeps
        (updateOpenSlot (placeVertex s.cfg.numerics (d.extractLsb' 22 10) (d.extractLsb' 12 10) (d.extractLsb' 0 12) s.width s.height) s) 0
      exact ⟨this.rest, this.regs, this.status, this.armed⟩
    · cases h; exact ⟨rfl, fun _ _ => rfl, fun _ _ _ => rfl, id⟩
  · cases h; exact ⟨rfl, fun _ _ => rfl, fun _ _ _ => rfl, id⟩
  · cases h; exact ⟨rfl, fun _ _ => rfl, fun _ _ _ => rfl, id⟩
  · cases h; exact ⟨rfl, fun _ _ => rfl, fun _ _ _ => rfl, id⟩
  · cases h; exact ⟨rfl, fun _ _ => rfl, fun _ _ _ => rfl, id⟩
  · cases h; exact ⟨rfl, fun _ _ => rfl, fun _ _ _ => rfl, id⟩
  · unfold execCmdRenderStart at h
    obtain ⟨s1, h1, h2⟩ := andThen_eq_next.1 h
    obtain ⟨c, -, rfl⟩ := renderScene_eq_next h1
    cases h2
    refine ⟨?_, fun q hq => ?_, fun i h2 h3 => ?_, fun _ => rfl⟩
    · unfold finishFrame setFbMemory; cases s.fb.store <;> rfl
    · rw [getReg_armTimer, getReg_raiseRenderBusy_of_ne hq, getReg_finishFrame]
    · rw [statusBit_congr (armTimer_regs _), statusBit_raiseRenderBusy h2 h3]
      exact statusBit_congr (by simp [finishFrame]) (by simp [finishFrame])
  · cases h; exact ⟨rfl, fun _ _ => rfl, fun _ _ _ => rfl, id⟩

/-- A command is refused only by a render that draws outside FB. -/
theorem dispatch_completes (hfb : FbCovers s) (c : CmdId) (d : Word) : ∃ t, dispatch c d s = .next t := by
  unfold dispatch
  split_ifs
  · unfold execCmdVertex; simp only; split_ifs <;> exact ⟨_, rfl⟩
  · exact ⟨_, rfl⟩
  · exact ⟨_, rfl⟩
  · exact ⟨_, rfl⟩
  · exact ⟨_, rfl⟩
  · exact ⟨_, rfl⟩
  · obtain ⟨t, ht⟩ := renderScene_completes hfb
    exact ⟨_, by rw [execCmdRenderStart, ht]; rfl⟩
  · exact ⟨_, rfl⟩

-- the host's promise about FB depends on the display alone

theorem FbCovers.of_eq (h : FbCovers s) (hw : t.width = s.width) (hh : t.height = s.height)
    (hst : t.stride = s.stride) (hb : t.bpp = s.bpp) (hfb : t.fb = s.fb) (hc : t.cfg = s.cfg) : FbCovers t := by
  unfold FbCovers fbLimit at *
  rw [hw, hh, hst, hb, hfb, hc]
  exact h

theorem CommandKeeps.fbCovers (k : CommandKeeps s t) (h : FbCovers s) : FbCovers t :=
  h.of_eq (congrArg State.width k.rest :) (congrArg State.height k.rest :) (congrArg State.stride k.rest :)
    (congrArg State.bpp k.rest :) (congrArg State.fb k.rest :) (congrArg State.cfg k.rest :)

-- retiring an entry, accepting one

/-- What retiring the head changes: the FIFO, and the flags FIFO_FULL and FIFO_EMPTY (R193). -/
theorem retireHead_rest (s : State) :
    retireHead s = { s with fifo := fifoPop s.cfg.fifoCapacity s.fifo, regs := (retireHead s).regs } := by
  unfold retireHead; simp only; split_ifs <;> rfl

theorem getReg_retireHead_of_ne {q : RegName} (h : q ≠ regCoreStatus) : getReg (retireHead s) q = getReg s q := by
  unfold retireHead; simp only
  split_ifs
  · rw [getReg_setStatus_of_ne h, getReg_setStatus_of_ne h]; exact getReg_congr rfl
  · rw [getReg_setStatus_of_ne h]; exact getReg_congr rfl

theorem statusBit_retireHead (i : Nat) :
    statusBit (retireHead s) i =
      if i = bitFifoFull then false
      else if i = bitFifoEmpty then (decide ((fifoPop s.cfg.fifoCapacity s.fifo).count = 0) || statusBit s i)
      else statusBit s i := by
  have base : statusBit { s with fifo := fifoPop s.cfg.fifoCapacity s.fifo } i = statusBit s i :=
    statusBit_congr rfl
  unfold retireHead
  simp only
  by_cases hc : (fifoPop s.cfg.fifoCapacity s.fifo).count = 0
  · rw [if_pos hc, statusBit_setStatus (by decide), statusBit_setStatus (by decide), base]
    simp only [eq_comm (a := i), hc, decide_true, Bool.true_or]
    by_cases h1 : bitFifoFull = i
    · rw [if_pos h1, if_pos h1, if_neg]; rw [← h1]; decide
    · rw [if_neg h1, if_neg h1]
  · rw [if_neg hc, statusBit_setStatus (by decide), base]
    simp only [eq_comm (a := i), hc, decide_false, Bool.false_or, ite_self]

/-- What accepting a push changes: the FIFO, and the flags FIFO_EMPTY and FIFO_FULL (R190, R191). -/
theorem acceptPush_rest (c : CmdId) (d : Word) (s : State) :
    acceptPush c d s =
      { s with fifo := fifoPut s.cfg.fifoCapacity ⟨c, d⟩ s.fifo, regs := (acceptPush c d s).regs } := by
  unfold acceptPush; simp only; split_ifs <;> rfl

theorem getReg_acceptPush_of_ne {q : RegName} (h : q ≠ regCoreStatus) (c : CmdId) (d : Word) :
    getReg (acceptPush c d s) q = getReg s q := by
  unfold acceptPush; simp only
  split_ifs
  · rw [getReg_setStatus_of_ne h, getReg_setStatus_of_ne h]; exact getReg_congr rfl
  · rw [getReg_setStatus_of_ne h]; exact getReg_congr rfl

-- the drain and the push

/-- A property that dispatching the head and retiring it keeps is kept by the drain loop. -/
theorem drainLoop_induct {P : State → Prop}
    (step : ∀ s t, P s → s.fifo.count ≠ 0 → dispatch (fifoHead s.fifo).cmd (fifoHead s.fifo).data s = .next t →
      P (retireHead t))
    {n : Nat} (hs : P s) (h : drainLoop n s = .next t) : P t := by
  induction n generalizing s with
  | zero => cases h; exact hs
  | succ n ih =>
    unfold drainLoop at h
    split_ifs at h with hc
    · cases h; exact hs
    · obtain ⟨s1, h1, h2⟩ := andThen_eq_next.1 h
      exact ih (step s s1 hs hc h1) h2

/-- The drain completes under the host's promise about FB. -/
theorem drainLoop_completes {n : Nat} (hfb : FbCovers s) : ∃ t, drainLoop n s = .next t := by
  induction n generalizing s with
  | zero => exact ⟨s, rfl⟩
  | succ n ih =>
    unfold drainLoop
    split_ifs
    · exact ⟨s, rfl⟩
    · obtain ⟨s1, h1⟩ := dispatch_completes hfb (fifoHead s.fifo).cmd (fifoHead s.fifo).data
      rw [h1, andThen_next]
      refine ih ?_
      have k := (dispatch_keeps h1).fbCovers hfb
      have r := retireHead_rest s1
      exact k.of_eq (congrArg State.width r :) (congrArg State.height r :) (congrArg State.stride r :)
        (congrArg State.bpp r :) (congrArg State.fb r :) (congrArg State.cfg r :)

/-- What a push can do (R190): drop and log, accept, or accept and drain. -/
theorem push_cases (c : CmdId) (d : Word) (s : State) :
    (s.fifo.count = s.cfg.fifoCapacity ∧ push c d s = .next (setStatus bitFifoFull true (diag (.fifoFull c d) s))) ∨
    (s.fifo.count ≠ s.cfg.fifoCapacity ∧ drainGateOpen (acceptPush c d s) = true ∧
      push c d s = drain (acceptPush c d s)) ∨
    (s.fifo.count ≠ s.cfg.fifoCapacity ∧ drainGateOpen (acceptPush c d s) = false ∧
      push c d s = .next (acceptPush c d s)) := by
  unfold push
  split_ifs with h1 h2
  · exact .inl ⟨h1, rfl⟩
  · exact .inr (.inl ⟨h1, h2, rfl⟩)
  · exact .inr (.inr ⟨h1, by simpa using h2, rfl⟩)

/-- A push completes under the host's promise about FB. -/
theorem push_completes (hfb : FbCovers s) (c : CmdId) (d : Word) : ∃ t, push c d s = .next t := by
  rcases push_cases c d s with ⟨-, e⟩ | ⟨-, -, e⟩ | ⟨-, -, e⟩
  · exact ⟨_, e⟩
  · rw [e]
    have r := acceptPush_rest c d s
    exact drainLoop_completes (hfb.of_eq (congrArg State.width r :) (congrArg State.height r :)
      (congrArg State.stride r :) (congrArg State.bpp r :) (congrArg State.fb r :) (congrArg State.cfg r :))
  · exact ⟨_, e⟩

end Sys2Proof.Machine
end

