-- ==== Sys2Proof/Laws/Drain.lean ====
section
/-! SUPPORT. What a render, a drain and a push can do, in the terms of Safety. -/

namespace Sys2Proof.Machine

variable {s t : State}

/-- The flags after an accepted push (R190, R191). -/
theorem statusBit_acceptPush (c : CmdId) (d : Word) (s : State) (i : Nat) :
    statusBit (acceptPush c d s) i = if i = bitFifoEmpty then false
      else if i = bitFifoFull then (statusBit s i || decide (s.fifo.count + 1 = s.cfg.fifoCapacity)) else statusBit s i := by
  have base : statusBit { s with fifo := fifoPut s.cfg.fifoCapacity ⟨c, d⟩ s.fifo } i = statusBit s i :=
    statusBit_congr rfl
  have e : (fifoPut s.cfg.fifoCapacity ⟨c, d⟩ s.fifo).count = s.fifo.count + 1 := rfl
  unfold acceptPush
  simp only [e]
  by_cases hc : s.fifo.count + 1 = s.cfg.fifoCapacity
  · rw [if_pos hc, statusBit_setStatus (by decide), statusBit_setStatus (by decide), base]
    simp only [eq_comm (a := i), hc, decide_true, Bool.or_true]
    by_cases h1 : bitFifoFull = i
    · rw [if_pos h1, if_neg, if_pos h1]; rw [← h1]; decide
    · rw [if_neg h1, if_neg h1]
  · rw [if_neg hc, statusBit_setStatus (by decide), base]
    simp only [eq_comm (a := i), hc, decide_false, Bool.or_false, ite_self]

/-- What an accepted push does before any drain. -/
theorem acceptPush_accepted (c : CmdId) (d : Word) (s : State) : Accepted c d s (acceptPush c d s) where
  fifo := congrArg State.fifo (acceptPush_rest c d s)
  empty := by rw [statusBit_acceptPush, if_pos rfl]
  full := by rw [statusBit_acceptPush, if_neg (by decide), if_pos rfl]
  status := by
    intro i hi
    simp only [List.mem_cons, List.not_mem_nil, or_false, not_or] at hi
    rw [statusBit_acceptPush, if_neg hi.1, if_neg hi.2]
  regs := by
    intro q hq
    exact getReg_acceptPush_of_ne (fun e => hq (by simp [e])) c d
  mem := by rw [acceptPush_rest]; exact MemSame.refl _
  rest := by
    have := acceptPush_rest c d s
    rw [this]

/-- What a dropped push does. -/
theorem fullPush_dropped (c : CmdId) (d : Word) (s : State) : Dropped c d s (setStatus bitFifoFull true (diag (.fifoFull c d) s)) where
  full := by rw [statusBit_setStatus (by decide), if_pos rfl]
  status := by
    intro i hi
    rw [statusBit_setStatus (by decide), if_neg (fun e => hi (by simp [← e]))]
    exact statusBit_congr rfl
  regs := by
    intro q hq
    rw [getReg_setStatus_of_ne (fun e => hq (by simp [e]))]; rfl
  mem := MemSame.refl _
  rest := rfl

/-- A push leaves the gate as it was (R192). -/
theorem drainGateOpen_acceptPush (c : CmdId) (d : Word) (s : State) : drainGateOpen (acceptPush c d s) = drainGateOpen s := by
  unfold drainGateOpen
  rw [statusBit_acceptPush, if_neg (by decide), if_neg (by decide), statusBit_acceptPush, if_neg (by decide), if_neg (by decide)]

/-- A byte that is none of the bytes of a covered pixel keeps its value. -/
theorem drawPixel_frame {p : Polygon} {px py a : Nat} {c c' : Canvas} (h : drawPixel (viewOf s) p px py c = some c')
    (ha : covered (weightsAt (viewOf s) p.v px py) = true → ¬ ByteOfPixel s px py a) : memRead c'.mem a = memRead c.mem a := by
  rcases drawPixel_cases h with rfl | ⟨m, hc, hm, rfl⟩
  · rfl
  · have hna := ha hc
    rcases writePixel_cases hm with ⟨-, rfl⟩ | ⟨-, rfl⟩
    · rfl
    · show memRead (memWriteBytes _ _ _) a = _
      rw [memRead_memWriteBytes, if_neg]
      rw [length_pixelBytes]
      exact hna

theorem fbMemory_finishFrame (c : Canvas) : fbMemory (finishFrame c s) = c.mem := by
  unfold finishFrame fbMemory setFbMemory
  cases h : s.fb.store <;> simp [emit, h]

/-- Some live polygon draws at a pixel. -/
def SceneCovers (s : State) (px py : Nat) : Prop := ∃ p ∈ s.polys, culled (viewOf s) p = false ∧ degenerate (viewOf s) p.v = false ∧
      covered (weightsAt (viewOf s) p.v px py) = true

theorem finishFrame_bytes {c : Canvas} {P : Nat → Nat → Prop} (h : ∀ a, (∀ px py, px < s.width → py < s.height → P px py → ¬ ByteOfPixel s px py a) →
    memRead c.mem a = memRead (fbMemory s) a) : BytesSameButPixels P s (finishFrame c s) := by
  unfold BytesSameButPixels hostByte vramByte
  unfold fbMemory at h
  unfold finishFrame setFbMemory
  cases hs : s.fb.store <;> simp only [hs] at h ⊢
  · exact ⟨fun a ha => h a (ha trivial), fun _ _ => rfl⟩
  · exact ⟨fun _ _ => rfl, fun a ha => h a (ha trivial)⟩

/-- The bytes a render can change. -/
theorem renderScene_bytes (h : renderScene s = .next t) : BytesSameButPixels (SceneCovers s) s t := by
  obtain ⟨c, hc, rfl⟩ := renderScene_eq_next h
  refine finishFrame_bytes fun a ha => ?_
  refine renderTiles_induct (P := fun c => memRead c.mem a = memRead (fbMemory s) a) ?_ rfl hc
  intro p hp h1 h2 px py hx hy c c' e hd
  rw [drawPixel_frame hd, e]
  intro hcov
  exact ha px py hx hy ⟨p, hp, h1, h2, hcov⟩

theorem BytesSameButPixels.mono {P Q : Nat → Nat → Prop} (h : BytesSameButPixels P s t) (hpq : ∀ x y, P x y → Q x y) :
    BytesSameButPixels Q s t :=
  ⟨fun a ha => h.1 a fun e px py hx hy hp => ha e px py hx hy (hpq _ _ hp),
   fun a ha => h.2 a fun e px py hx hy hp => ha e px py hx hy (hpq _ _ hp)⟩

theorem BytesSameButPixels.of_eq {P : Nat → Nat → Prop} (h1 : t.hostMem = s.hostMem) (h2 : t.vram = s.vram) :
    BytesSameButPixels P s t := by
  unfold BytesSameButPixels hostByte vramByte
  rw [h1, h2]; exact ⟨fun _ _ => rfl, fun _ _ => rfl⟩

theorem zSample_finishFrame (c : Canvas) (k : Nat) : zSample (finishFrame c s) k = cellsRead depthClear c.zbuf k := by
  unfold finishFrame zSample setFbMemory; cases s.fb.store <;> rfl

theorem renderTiles_empty {view : View} {polys : List Polygon} {ts : List Tile} {c : Canvas} (h : ∀ tile ∈ ts, tile.list = []) :
    renderTiles view polys ts c = some c := by
  induction ts generalizing c with
  | nil => rfl
  | cons t ts ih =>
    unfold renderTiles
    rw [h t (by simp)]
    exact ih fun x hx => h x (by simp [hx])

/-- The bytes a command can change. -/
theorem dispatch_bytes {c : CmdId} {d : Word} (h : dispatch c d s = .next t) : BytesSameButPixels (fun _ _ => True) s t := by
  unfold dispatch at h
  split_ifs at h
  · unfold execCmdVertex at h
    simp only at h
    split_ifs at h
    · cases h
      rcases finalizePolygon_cases (updateOpenSlot (placeVertex s.cfg.numerics (d.extractLsb' 22 10) (d.extractLsb' 12 10) (d.extractLsb' 0 12) s.width s.height) s) with ⟨-, e⟩ | ⟨-, e⟩ <;> rw [e] <;> exact .of_eq rfl rfl
    · cases h; exact .of_eq rfl rfl
  · cases h; exact .of_eq rfl rfl
  · cases h; exact .of_eq rfl rfl
  · cases h; exact .of_eq rfl rfl
  · cases h; exact .of_eq rfl rfl
  · cases h; exact .of_eq rfl rfl
  · unfold execCmdRenderStart at h
    obtain ⟨s1, h1, h2⟩ := andThen_eq_next.1 h
    cases h2
    exact (renderScene_bytes h1).mono fun _ _ _ => trivial
  · cases h; exact .of_eq rfl rfl

/-- What dispatches, drains and pushes keep, put together. -/
structure Drained (s t : State) : Prop where
  regs : RegsSameExcept [regCoreStatus] s t
  status : StatusSameExcept drainFlags s t
  bytes : BytesSameButPixels (fun _ _ => True) s t
  frame : DrainFrame s t

theorem BytesSameButPixels.trans {s t u : State} (h1 : BytesSameButPixels (fun _ _ => True) s t) (h2 : BytesSameButPixels (fun _ _ => True) t u)
    (e : t.width = s.width ∧ t.height = s.height ∧ t.fb = s.fb ∧ t.bpp = s.bpp ∧ t.stride = s.stride) :
    BytesSameButPixels (fun _ _ => True) s u := by
  have eb : ∀ px py a, ByteOfPixel t px py a ↔ ByteOfPixel s px py a := by
    intro px py a
    simp only [ByteOfPixel, pixelOffset, viewOf, e.2.2.1, e.2.2.2.1, e.2.2.2.2]
  obtain ⟨e1, e2, e3, e4, e5⟩ := e
  refine ⟨fun a ha => (h2.1 a ?_).trans (h1.1 a ha), fun a ha => (h2.2 a ?_).trans (h1.2 a ha)⟩ <;>
  · intro hs px py hx hy ht
    rw [eb]; rw [e3] at hs; rw [e1] at hx; rw [e2] at hy
    exact ha hs px py hx hy ht

theorem DrainFrame.display (h : DrainFrame s t) : t.width = s.width ∧ t.height = s.height ∧ t.fb = s.fb ∧ t.bpp = s.bpp ∧ t.stride = s.stride :=
  ⟨(congrArg State.width h :), (congrArg State.height h :), (congrArg State.fb h :), (congrArg State.bpp h :), (congrArg State.stride h :)⟩

theorem DrainFrame.trans {s t u : State} (h1 : DrainFrame s t) (h2 : DrainFrame t u) : DrainFrame s u := by
  unfold DrainFrame at *
  generalize e1 : t.regs = a1 at h1
  rw [h2, h1]

theorem Drained.trans {s t u : State} (h1 : Drained s t) (h2 : Drained t u) : Drained s u where
  regs q hq := (h2.regs q hq).trans (h1.regs q hq)
  status i hi := (h2.status i hi).trans (h1.status i hi)
  bytes := BytesSameButPixels.trans h1.bytes h2.bytes h1.frame.display
  frame := h1.frame.trans h2.frame

theorem Drained.refl (s : State) : Drained s s := ⟨fun _ _ => rfl, fun _ _ => rfl, .of_eq rfl rfl, rfl⟩

theorem dispatch_drained {c : CmdId} {d : Word} (h : dispatch c d s = .next t) : Drained s t where
  regs q hq := (dispatch_keeps h).regs q (by simpa using hq)
  status i hi := by
    simp only [drainFlags, List.mem_cons, List.not_mem_nil, or_false, not_or] at hi
    exact (dispatch_keeps h).status i hi.2.2.1 hi.2.2.2
  bytes := dispatch_bytes h
  frame := by
    have := (dispatch_keeps h).rest
    unfold DrainFrame
    rw [this]

theorem retireHead_drained (s : State) : Drained s (retireHead s) where
  regs q hq := getReg_retireHead_of_ne (by simpa using hq)
  status i hi := by
    simp only [drainFlags, List.mem_cons, List.not_mem_nil, or_false, not_or] at hi
    rw [statusBit_retireHead, if_neg hi.2.1, if_neg hi.1]
  bytes := by rw [retireHead_rest]; exact .of_eq rfl rfl
  frame := by unfold DrainFrame; rw [retireHead_rest]

/-- All that a drain can do. -/
theorem drainLoop_drained {n : Nat} (h : drainLoop n s = .next t) : Drained s t :=
  drainLoop_induct (P := fun u => Drained s u)
    (fun _ _ hu _ hd => (hu.trans (dispatch_drained hd)).trans (retireHead_drained _)) (Drained.refl s) h

theorem accepted_drained {c : CmdId} {d : Word} (h : Accepted c d s t) : Drained s t where
  regs := h.regs
  status i hi := h.status i (by
    simp only [drainFlags, List.mem_cons, List.not_mem_nil, or_false, not_or] at hi ⊢; exact ⟨hi.1, hi.2.1⟩)
  bytes := by rw [h.rest]; exact .of_eq rfl rfl
  frame := by unfold DrainFrame; rw [h.rest]

theorem dropped_drained {c : CmdId} {d : Word} (h : Dropped c d s t) : Drained s t where
  regs := h.regs
  status i hi := h.status i (by
    simp only [drainFlags, List.mem_cons, List.not_mem_nil, or_false, not_or] at hi ⊢; exact hi.2.1)
  bytes := by rw [h.rest]; exact .of_eq rfl rfl
  frame := by unfold DrainFrame; rw [h.rest]

/-- All that a push can do, drain included. -/
theorem push_drained {c : CmdId} {d : Word} (h : push c d s = .next t) : Drained s t := by
  rcases push_cases c d s with ⟨-, e⟩ | ⟨-, -, e⟩ | ⟨-, -, e⟩ <;> rw [e] at h
  · cases h; exact dropped_drained (fullPush_dropped c d s)
  · exact (accepted_drained (acceptPush_accepted c d s)).trans (drainLoop_drained h)
  · cases h; exact accepted_drained (acceptPush_accepted c d s)

theorem dispatch_keeps_busy {c : CmdId} {d : Word} (h : dispatch c d s = .next t) (hb : statusBit s bitRenderBusy = true) :
    statusBit t bitRenderBusy = true := by
  unfold dispatch at h
  split_ifs at h
  · unfold execCmdVertex at h
    simp only at h
    split_ifs at h
    · cases h
      rcases finalizePolygon_cases (updateOpenSlot (placeVertex s.cfg.numerics (d.extractLsb' 22 10) (d.extractLsb' 12 10) (d.extractLsb' 0 12) s.width s.height) s) with ⟨-, e⟩ | ⟨-, e⟩ <;> rw [e] <;> exact hb
    · cases h; exact hb
  · cases h; exact hb
  · cases h; exact hb
  · cases h; exact hb
  · cases h; exact hb
  · cases h; exact hb
  · unfold execCmdRenderStart at h
    obtain ⟨s1, h1, h2⟩ := andThen_eq_next.1 h
    cases h2
    rw [statusBit_congr (armTimer_regs _)]; unfold raiseRenderBusy
    rw [statusBit_setStatus (by decide), if_neg (by decide), statusBit_setStatus (by decide), if_pos rfl]
  · cases h; exact hb

/-- A drain never clears RENDER_BUSY. -/
theorem drainLoop_keeps_busy {n : Nat} (h : drainLoop n s = .next t) (hb : statusBit s bitRenderBusy = true) :
    statusBit t bitRenderBusy = true :=
  drainLoop_induct (P := fun u => statusBit u bitRenderBusy = true)
    (fun _ _ hu _ hd => by rw [statusBit_retireHead, if_neg (by decide), if_neg (by decide)]; exact dispatch_keeps_busy hd hu) hb h

theorem push_keeps_busy {c : CmdId} {d : Word} (h : push c d s = .next t) (hb : statusBit s bitRenderBusy = true) :
    statusBit t bitRenderBusy = true := by
  rcases push_cases c d s with ⟨-, e⟩ | ⟨-, -, e⟩ | ⟨-, -, e⟩ <;> rw [e] at h
  · cases h
    rw [statusBit_setStatus (by decide), if_neg (by decide)]; exact hb
  · exact drainLoop_keeps_busy h (by rw [statusBit_acceptPush, if_neg (by decide), if_neg (by decide)]; exact hb)
  · cases h; rw [statusBit_acceptPush, if_neg (by decide), if_neg (by decide)]; exact hb

end Sys2Proof.Machine
end

