-- ==== Sys2Proof/Laws/Encoding.lean ====
section
/-! SUPPORT. What the decoder answers: always a well-formed instruction. -/

namespace Sys2Proof

open Machine

/-- A register that R104 lists has a row of its own: the write selected is none of the fallback rows. -/
theorem selectWrite_of_named {r : RegName} (v : Word) (h : r ∈ namedWrites) : (selectWrite r v).wf = true := by
  simp only [namedWrites, List.mem_cons, List.not_mem_nil, or_false] at h
  rcases h with rfl | rfl | rfl | rfl | rfl | rfl | rfl | rfl | rfl | rfl | rfl | rfl | rfl | rfl | rfl | rfl |
    rfl | rfl | rfl | rfl | rfl | rfl | rfl | rfl <;> rfl

/-- Every other word is a passive store, of bank pci, of bank interrupt, or of the rest (R104). -/
theorem selectWrite_of_not_named {r : RegName} (v : Word) (h : r ∉ namedWrites) :
    selectWrite r v = if r.bank = bankPci then .pciStore r.word v
      else if r.bank = bankInt then .intStore r.word v else .regStore r.bank r.word v := by
  simp only [namedWrites, List.mem_cons, List.not_mem_nil, or_false, not_or] at h
  obtain ⟨h1, h2, h3, h4, h5, h6, h7, h8, h9, h10, h11, h12, h13, h14, h15, h16, h17, h18, h19, h20, h21, h22,
    h23, h24⟩ := h
  unfold selectWrite
  simp only [h1, h2, h3, h4, h5, h6, h7, h8, h9, h10, h11, h12, h13, h14, h15, h16, h17, h18, h19, h20, h21, h22,
    h23, h24, if_false]

/-- The map of R104 never leaves a register that a specific row claims to a fallback row. -/
theorem selectWrite_wf (r : RegName) (v : Word) : (selectWrite r v).wf = true := by
  by_cases h : r ∈ namedWrites
  · exact selectWrite_of_named v h
  · rw [selectWrite_of_not_named v h]
    split_ifs with h1 h2
    · rfl
    · simpa [Instr.wf, ← h2] using h
    · simpa [Instr.wf, h1, h2] using h

theorem decodeCmd_wf (c : CmdId) (d : Word) : (decodeCmd c d).wf = true := by
  unfold decodeCmd decodeTexture
  simp only
  split_ifs <;> simp_all [Instr.wf]

/-- Every access and every command word decodes to a well-formed instruction. -/
theorem decode_wf (a : Access) : (decode a).wf = true := by
  cases a with
  | regw a v =>
    simp only [decode, decodeWrite]
    split_ifs with h1 h2
    · simpa [Instr.wf] using h1
    · simpa [Instr.wf, h2] using h1
    · exact selectWrite_wf _ _
  | regr a =>
    simp only [decode, decodeRead]
    split_ifs with h1 h2 h3
    · simpa [Instr.wf] using h1
    · simpa [Instr.wf, h2] using h1
    · rfl
    · simpa [Instr.wf, addrReg] using h3
  | cmd w => exact decodeCmd_wf _ _

-- the fields of an assembled address and of a command word

theorem cmdWordId_cmdWord (c : CmdId) (d : Word) : cmdWordId (cmdWord c d) = c :=
  BitVec.extractLsb'_append_eq_left (a := c) (b := d)

theorem cmdWordData_cmdWord (c : CmdId) (d : Word) : cmdWordData (cmdWord c d) = d :=
  BitVec.extractLsb'_append_eq_right (a := c) (b := d)

theorem addrAlign_addr (r : RegName) : addrAlign r.addr = 0#2 :=
  BitVec.extractLsb'_append_eq_right (a := (0#5 ++ r.bank ++ r.word : BitVec (5 + 3 + 10))) (b := 0#2)

theorem addrBankHigh_addr (r : RegName) : addrBankHigh r.addr = false := by
  unfold addrBankHigh RegName.addr
  rw [BitVec.getLsbD_append, if_neg (by decide), BitVec.getLsbD_append, if_neg (by decide), BitVec.getLsbD_append,
    if_neg (by decide)]
  decide

/-- The register that an assembled address selects is the one it was assembled from (R30, R100). -/
theorem addrReg_addr (r : RegName) : addrReg r.addr = r := by
  have hb : addrBank r.addr = r.bank := by
    apply BitVec.eq_of_getLsbD_eq
    intro i hi
    simp only [addrBank, RegName.addr, BitVec.getLsbD_extractLsb', BitVec.getLsbD_append]
    have : i < 3 := hi
    rw [if_neg (by omega), if_neg (by omega), if_pos (by omega)]
    simp [hi, show 12 + i - 2 - 10 = i by omega]
  have hw : addrWord r.addr = r.word := by
    apply BitVec.eq_of_getLsbD_eq
    intro i hi
    simp only [addrWord, RegName.addr, BitVec.getLsbD_extractLsb', BitVec.getLsbD_append]
    rw [if_neg (by omega), if_pos (by omega)]
    simp [hi, show 2 + i - 2 = i by omega]
  unfold addrReg
  rw [hb, hw]

end Sys2Proof
end

