-- ==== Sys2Proof/Laws/PerInstr.lean ====
section
/-! SUPPORT. Per instruction: its encoding has the match bits of its row of spec/opcode_table.json under the
row's mask, in the row's format. The rows are written out from the table; the encoder is written from
spec/30_encoding.md. -/

namespace Sys2Proof.Laws.TableRow

open Sys2Proof.Machine

/-- A row of the opcode table: its format is that of `encode`, its match and mask are over the 20 address
bits (REGW, REGR) or the 40 bits of a command word (CMD), R116. -/
inductive Row where
  | regw (matchBits mask : BitVec 20)
  | regr (matchBits mask : BitVec 20)
  | cmd (matchBits mask : BitVec 40)

/-- An access has a row's format, and its match bits under its mask. -/
def fits : Row → Access → Prop
  | .regw m k, .regw a _ => a &&& k = m
  | .regr m k, .regr a => a &&& k = m
  | .cmd m k, .cmd w => w &&& k = m
  | .regw _ _, .regr _ | .regw _ _, .cmd _ | .regr _ _, .regw _ _ | .regr _ _, .cmd _ => False
  | .cmd _ _, .regw _ _ | .cmd _ _, .regr _ => False

/-- The rows of spec/opcode_table.json. -/
def rowOf : Instr → Row
  | .coreReset _ => .regw 0x00010#20 0x0FFFF#20
  | .coreConfig _ => .regw 0x0000C#20 0x0FFFF#20
  | .coreStatus _ => .regw 0x00008#20 0x0FFFF#20
  | .polyControl _ => .regw 0x01000#20 0x0FFFF#20
  | .polyVertex _ => .regw 0x01004#20 0x0FFFF#20
  | .polyNormal _ => .regw 0x01008#20 0x0FFFF#20
  | .polyColor _ => .regw 0x0100C#20 0x0FFFF#20
  | .polyTexcoord _ => .regw 0x01010#20 0x0FFFF#20
  | .texControl _ => .regw 0x02000#20 0x0FFFF#20
  | .texAddr _ => .regw 0x02004#20 0x0FFFF#20
  | .texFormat _ => .regw 0x02008#20 0x0FFFF#20
  | .texFilter _ => .regw 0x0200C#20 0x0FFFF#20
  | .renderControl _ => .regw 0x03000#20 0x0FFFF#20
  | .renderZbuffer _ => .regw 0x03004#20 0x0FFFF#20
  | .renderBlend _ => .regw 0x03008#20 0x0FFFF#20
  | .pciStore _ _ => .regw 0x04000#20 0x0F003#20
  | .videoFbaddr _ => .regw 0x05000#20 0x0FFFF#20
  | .videoStride _ => .regw 0x05004#20 0x0FFFF#20
  | .dmaControl _ => .regw 0x06000#20 0x0FFFF#20
  | .dmaSrc _ => .regw 0x06004#20 0x0FFFF#20
  | .dmaDest _ => .regw 0x06008#20 0x0FFFF#20
  | .dmaCount _ => .regw 0x0600C#20 0x0FFFF#20
  | .intClear _ => .regw 0x07008#20 0x0FFFF#20
  | .intStatus _ => .regw 0x07000#20 0x0FFFF#20
  | .intMask _ => .regw 0x07004#20 0x0FFFF#20
  | .intStore _ _ => .regw 0x07000#20 0x0F003#20
  | .regStore _ _ _ => .regw 0x00000#20 0x08003#20
  | .regUnalignedWr _ _ => .regw 0x00000#20 0x00000#20
  | .regUnknownWr _ _ => .regw 0x08000#20 0x08003#20
  | .coreStatusRd => .regr 0x00008#20 0x0FFFF#20
  | .regLoad _ _ => .regr 0x00000#20 0x08003#20
  | .regUnalignedRd _ => .regr 0x00000#20 0x00000#20
  | .regUnknownRd _ => .regr 0x08000#20 0x08003#20
  | .cmdVertex _ _ _ => .cmd 0x0100000000#40 0xFF00000000#40
  | .cmdTexAddr _ => .cmd 0x0201000000#40 0xFFFF000000#40
  | .cmdTexUv _ _ => .cmd 0x0202000000#40 0xFFFF000000#40
  | .cmdTexFormat _ => .cmd 0x0203000000#40 0xFFFF000000#40
  | .cmdTexUnknown _ _ => .cmd 0x0200000000#40 0xFF00000000#40
  | .cmdColor _ _ _ _ => .cmd 0x0300000000#40 0xFF00000000#40
  | .cmdRenderStart _ => .cmd 0x1000000000#40 0xFF00000000#40
  | .cmdUnknown _ _ => .cmd 0x0000000000#40 0x0000000000#40

/-- A well-formed instruction is encoded as its row says. -/
def Statement (i : Instr) : Prop := i.wf = true → fits (rowOf i) (encode i)

-- the bits of an address and of a command word

theorem getLsbD_addr (b : BitVec 3) (w : BitVec 10) (i : Nat) : (RegName.mk b w).addr.getLsbD i =
    if i < 2 then false else if i < 12 then w.getLsbD (i - 2) else if i < 15 then b.getLsbD (i - 12) else false := by
  have h1 : (RegName.mk b w).addr.getLsbD i =
      if i < 2 then (0#2).getLsbD i else
        if i - 2 < 10 then w.getLsbD (i - 2) else
          if i - 2 - 10 < 3 then b.getLsbD (i - 2 - 10) else (0#5).getLsbD (i - 2 - 10 - 3) := by
    refine (BitVec.getLsbD_append).trans ?_
    rw [BitVec.getLsbD_append, BitVec.getLsbD_append]
  rw [h1]
  have e : i - 2 - 10 = i - 12 := by omega
  by_cases c1 : i < 2
  · simp [c1]
  · by_cases c2 : i < 12
    · simp [c1, c2, show i - 2 < 10 by omega]
    · by_cases c3 : i < 15
      · simp [c1, c2, c3, e, show ¬ i - 2 < 10 by omega, show i - 12 < 3 by omega]
      · simp [c1, c2, c3, e, show ¬ i - 2 < 10 by omega, show ¬ i - 12 < 3 by omega]

theorem getLsbD_cmdWord (c : CmdId) (d : Word) (i : Nat) :
    (cmdWord c d).getLsbD i = if i < 32 then d.getLsbD i else c.getLsbD (i - 32) :=
  BitVec.getLsbD_append

theorem getLsbD_texPayload (sub : BitVec 8) (arg : BitVec 24) (i : Nat) :
    (texPayload sub arg).getLsbD i = if i < 24 then arg.getLsbD i else sub.getLsbD (i - 24) :=
  BitVec.getLsbD_append

-- the masks of the fallback rows

theorem addr_mask_bank (b : BitVec 3) (w : BitVec 10) (m : BitVec 20)
    (hm : ∀ i, i < 20 → m.getLsbD i = if i < 12 then false else if i < 15 then b.getLsbD (i - 12) else false) :
    (RegName.mk b w).addr &&& 0x0F003#20 = m := by
  apply BitVec.eq_of_getLsbD_eq
  intro i hi
  have h0 : (0x0F003#20).getLsbD i = (decide (i < 2) || decide (12 ≤ i ∧ i < 16)) := by
    revert i; decide
  rw [BitVec.getLsbD_and, getLsbD_addr, h0, hm i hi]
  by_cases c1 : i < 2
  · simp [c1, show i < 12 by omega]
  · by_cases c2 : i < 12
    · simp [c1, c2, show ¬ 12 ≤ i by omega]
    · by_cases c3 : i < 15
      · simp [c1, c2, c3, show 12 ≤ i by omega, show i < 16 by omega]
      · simp [c1, c2, c3]

theorem addr_mask_low (b : BitVec 3) (w : BitVec 10) : (RegName.mk b w).addr &&& 0x08003#20 = 0x00000#20 := by
  apply BitVec.eq_of_getLsbD_eq
  intro i hi
  have h0 : (0x08003#20).getLsbD i = (decide (i < 2) || decide (i = 15)) := by
    revert i; decide
  rw [BitVec.getLsbD_and, getLsbD_addr, h0, BitVec.getLsbD_zero]
  by_cases c1 : i < 2
  · simp [c1]
  · by_cases c2 : i = 15
    · simp [c2]
    · simp [c1, c2]

theorem addr_mask_unknown (a : RegAddr) (h1 : addrAlign a = 0#2) (h2 : addrBankHigh a = true) :
    a &&& 0x08003#20 = 0x08000#20 := by
  have e0 : a.getLsbD 0 = false := by
    have h : (addrAlign a).getLsbD 0 = false := by rw [h1]; rfl
    simpa [addrAlign, BitVec.getLsbD_extractLsb'] using h
  have e1 : a.getLsbD 1 = false := by
    have h : (addrAlign a).getLsbD 1 = false := by rw [h1]; rfl
    simpa [addrAlign, BitVec.getLsbD_extractLsb'] using h
  have e2 : a.getLsbD 15 = true := h2
  apply BitVec.eq_of_getLsbD_eq
  intro i hi
  have h0 : (0x08003#20).getLsbD i = (decide (i = 0) || (decide (i = 1) || decide (i = 15))) := by
    revert i; decide
  have h3 : (0x08000#20).getLsbD i = decide (i = 15) := by
    revert i; decide
  rw [BitVec.getLsbD_and, h0, h3]
  by_cases c0 : i = 0
  · subst c0; rw [e0]; rfl
  · by_cases c1 : i = 1
    · subst c1; rw [e1]; rfl
    · by_cases c2 : i = 15
      · subst c2; rw [e2]; rfl
      · simp [c0, c1, c2]

theorem cmd_mask_id (c : CmdId) (d : Word) : cmdWord c d &&& 0xFF00000000#40 = cmdWord c 0#32 := by
  apply BitVec.eq_of_getLsbD_eq
  intro i hi
  have h0 : (0xFF00000000#40).getLsbD i = decide (32 ≤ i) := by
    revert i; decide
  rw [BitVec.getLsbD_and, getLsbD_cmdWord, getLsbD_cmdWord, h0]
  by_cases h : i < 32
  · simp [h]
  · simp [h, Nat.le_of_not_lt h]

theorem cmd_mask_sub (c : CmdId) (sub : BitVec 8) (arg : BitVec 24) :
    cmdWord c (texPayload sub arg) &&& 0xFFFF000000#40 = cmdWord c (texPayload sub 0#24) := by
  apply BitVec.eq_of_getLsbD_eq
  intro i hi
  have h0 : (0xFFFF000000#40).getLsbD i = decide (24 ≤ i) := by
    revert i; decide
  rw [BitVec.getLsbD_and, getLsbD_cmdWord, getLsbD_cmdWord, getLsbD_texPayload, getLsbD_texPayload, h0]
  by_cases h : i < 24
  · simp [h, show i < 32 by omega]
  · by_cases h' : i < 32
    · simp [h, h', Nat.le_of_not_lt h]
    · simp [h', Nat.le_of_not_lt h]

theorem coreReset (x0 : Word) : Statement (.coreReset x0) := fun _ => by
  show _ &&& _ = _
  decide

theorem coreConfig (x0 : Word) : Statement (.coreConfig x0) := fun _ => by
  show _ &&& _ = _
  decide

theorem coreStatus (x0 : Word) : Statement (.coreStatus x0) := fun _ => by
  show _ &&& _ = _
  decide

theorem polyControl (x0 : Word) : Statement (.polyControl x0) := fun _ => by
  show _ &&& _ = _
  decide

theorem polyVertex (x0 : Word) : Statement (.polyVertex x0) := fun _ => by
  show _ &&& _ = _
  decide

theorem polyNormal (x0 : Word) : Statement (.polyNormal x0) := fun _ => by
  show _ &&& _ = _
  decide

theorem polyColor (x0 : Word) : Statement (.polyColor x0) := fun _ => by
  show _ &&& _ = _
  decide

theorem polyTexcoord (x0 : Word) : Statement (.polyTexcoord x0) := fun _ => by
  show _ &&& _ = _
  decide

theorem texControl (x0 : Word) : Statement (.texControl x0) := fun _ => by
  show _ &&& _ = _
  decide

theorem texAddr (x0 : Word) : Statement (.texAddr x0) := fun _ => by
  show _ &&& _ = _
  decide

theorem texFormat (x0 : Word) : Statement (.texFormat x0) := fun _ => by
  show _ &&& _ = _
  decide

theorem texFilter (x0 : Word) : Statement (.texFilter x0) := fun _ => by
  show _ &&& _ = _
  decide

theorem renderControl (x0 : Word) : Statement (.renderControl x0) := fun _ => by
  show _ &&& _ = _
  decide

theorem renderZbuffer (x0 : Word) : Statement (.renderZbuffer x0) := fun _ => by
  show _ &&& _ = _
  decide

theorem renderBlend (x0 : Word) : Statement (.renderBlend x0) := fun _ => by
  show _ &&& _ = _
  decide

theorem pciStore (x0 : BitVec 10) (x1 : Word) : Statement (.pciStore x0 x1) :=
  fun _ => addr_mask_bank _ _ _ (by decide)

theorem videoFbaddr (x0 : Word) : Statement (.videoFbaddr x0) := fun _ => by
  show _ &&& _ = _
  decide

theorem videoStride (x0 : Word) : Statement (.videoStride x0) := fun _ => by
  show _ &&& _ = _
  decide

theorem dmaControl (x0 : Word) : Statement (.dmaControl x0) := fun _ => by
  show _ &&& _ = _
  decide

theorem dmaSrc (x0 : Word) : Statement (.dmaSrc x0) := fun _ => by
  show _ &&& _ = _
  decide

theorem dmaDest (x0 : Word) : Statement (.dmaDest x0) := fun _ => by
  show _ &&& _ = _
  decide

theorem dmaCount (x0 : Word) : Statement (.dmaCount x0) := fun _ => by
  show _ &&& _ = _
  decide

theorem intClear (x0 : Word) : Statement (.intClear x0) := fun _ => by
  show _ &&& _ = _
  decide

theorem intStatus (x0 : Word) : Statement (.intStatus x0) := fun _ => by
  show _ &&& _ = _
  decide

theorem intMask (x0 : Word) : Statement (.intMask x0) := fun _ => by
  show _ &&& _ = _
  decide

theorem intStore (x0 : BitVec 10) (x1 : Word) : Statement (.intStore x0 x1) :=
  fun _ => addr_mask_bank _ _ _ (by decide)

theorem regStore (x0 : BitVec 3) (x1 : BitVec 10) (x2 : Word) : Statement (.regStore x0 x1 x2) :=
  fun _ => addr_mask_low _ _

theorem regUnalignedWr (x0 : RegAddr) (x1 : Word) : Statement (.regUnalignedWr x0 x1) := fun _ => BitVec.and_zero

theorem regUnknownWr (x0 : RegAddr) (x1 : Word) : Statement (.regUnknownWr x0 x1) := by
  intro h
  simp only [Instr.wf, Bool.and_eq_true, decide_eq_true_eq] at h
  exact addr_mask_unknown _ h.1 h.2

theorem coreStatusRd : Statement (.coreStatusRd) := fun _ => by
  show _ &&& _ = _
  decide

theorem regLoad (x0 : BitVec 3) (x1 : BitVec 10) : Statement (.regLoad x0 x1) :=
  fun _ => addr_mask_low _ _

theorem regUnalignedRd (x0 : RegAddr) : Statement (.regUnalignedRd x0) := fun _ => BitVec.and_zero

theorem regUnknownRd (x0 : RegAddr) : Statement (.regUnknownRd x0) := by
  intro h
  simp only [Instr.wf, Bool.and_eq_true, decide_eq_true_eq] at h
  exact addr_mask_unknown _ h.1 h.2

theorem cmdVertex (x0 : BitVec 10) (x1 : BitVec 10) (x2 : BitVec 12) : Statement (.cmdVertex x0 x1 x2) := fun _ => cmd_mask_id _ _

theorem cmdTexAddr (x0 : BitVec 24) : Statement (.cmdTexAddr x0) := fun _ => cmd_mask_sub _ _ _

theorem cmdTexUv (x0 : BitVec 12) (x1 : BitVec 12) : Statement (.cmdTexUv x0 x1) := by
  intro _
  have e : uvPayload x0 x1 = texPayload texSubUv (x0 ++ x1 : BitVec (12 + 12)) := by
    show (texSubUv ++ x0 ++ x1 : BitVec (8 + 12 + 12)) = _
    rw [BitVec.append_assoc]
    rfl
  show cmdWord cmdIdTexture (uvPayload x0 x1) &&& _ = _
  rw [e]
  exact cmd_mask_sub _ _ _

theorem cmdTexFormat (x0 : BitVec 24) : Statement (.cmdTexFormat x0) := fun _ => cmd_mask_sub _ _ _

theorem cmdTexUnknown (x0 : BitVec 8) (x1 : BitVec 24) : Statement (.cmdTexUnknown x0 x1) := fun _ => cmd_mask_id _ _

theorem cmdColor (x0 : BitVec 8) (x1 : BitVec 8) (x2 : BitVec 8) (x3 : BitVec 8) : Statement (.cmdColor x0 x1 x2 x3) := fun _ => cmd_mask_id _ _

theorem cmdRenderStart (x0 : Word) : Statement (.cmdRenderStart x0) := fun _ => cmd_mask_id _ _

theorem cmdUnknown (x0 : CmdId) (x1 : Word) : Statement (.cmdUnknown x0 x1) := fun _ => BitVec.and_zero

end Sys2Proof.Laws.TableRow
end

