-- ==== Sys2Proof/Laws/Reset.lean ====
section
/-! SUPPORT. The stores right after reset. -/

namespace Sys2Proof.Machine

/-- The memories of the reset state are in canonical form. -/
theorem reset_memories_wf : Memory.wf State.reset.hostMem = true ∧ Memory.wf State.reset.vram = true :=
  ⟨rfl, rfl⟩

end Sys2Proof.Machine
end

