-- ==== Sys2Proof/Tests/Slice0.lean ====
section
/-! SUPPORT. Tests: ill-formed terms that WellFormed refuses, words written out from the spec's encodings,
single steps whose results are those of spec/95_test_vectors.md, and for each obligation with hypotheses a
state and operands that meet them. -/

namespace Sys2Proof.Tests

open Sys2Proof.Machine

-- one theorem after another: side by side, their kernel evaluations ask for too many threads
set_option Elab.async false

-- WellFormed: one ill-formed term for each check

/-- Word 4 of bank core is REG.CORE.RESET, which has a row of its own (R104). -/
theorem test_wf_regStore_named : (Instr.regStore 0#3 0x004#10 0#32).wf = false := by decide
/-- Bank pci has its own row (R104). -/
theorem test_wf_regStore_pci : (Instr.regStore 4#3 0x004#10 0#32).wf = false := by decide
/-- Bank interrupt has its own fallback row (R104). -/
theorem test_wf_regStore_int : (Instr.regStore 7#3 0x080#10 0#32).wf = false := by decide
theorem test_wf_intStore_named : (Instr.intStore 0x002#10 0#32).wf = false := by decide
theorem test_wf_regUnalignedWr_aligned : (Instr.regUnalignedWr 0x06000#20 0#32).wf = false := by decide
theorem test_wf_regUnknownWr_unaligned : (Instr.regUnknownWr 0x08001#20 0#32).wf = false := by decide
theorem test_wf_regUnknownWr_bank7 : (Instr.regUnknownWr 0x07FFC#20 0#32).wf = false := by decide
theorem test_wf_regLoad_status : (Instr.regLoad 0#3 0x002#10).wf = false := by decide
theorem test_wf_regUnalignedRd_aligned : (Instr.regUnalignedRd 0x00100#20).wf = false := by decide
theorem test_wf_regUnknownRd_unaligned : (Instr.regUnknownRd 0x08002#20).wf = false := by decide
theorem test_wf_regUnknownRd_bank7 : (Instr.regUnknownRd 0x07000#20).wf = false := by decide
theorem test_wf_cmdTexUnknown_known : (Instr.cmdTexUnknown 0x02#8 0#24).wf = false := by decide
theorem test_wf_cmdUnknown_known : (Instr.cmdUnknown 0x10#8 0#32).wf = false := by decide

-- Decode: every constructor, from a word written out from R31, R100 to R110

theorem test_decode_core :
    decode (.regw 0x00010#20 0x4#32) = .coreReset 0x4#32 ∧ decode (.regw 0x0000C#20 0x3#32) = .coreConfig 0x3#32 ∧
    decode (.regw 0x00008#20 0xF#32) = .coreStatus 0xF#32 := by decide
theorem test_decode_poly :
    decode (.regw 0x01000#20 0x8#32) = .polyControl 0x8#32 ∧
    decode (.regw 0x01004#20 0x28000800#32) = .polyVertex 0x28000800#32 ∧
    decode (.regw 0x01008#20 0xFF0000FF#32) = .polyNormal 0xFF0000FF#32 ∧
    decode (.regw 0x0100C#20 0x00FF00FF#32) = .polyColor 0x00FF00FF#32 ∧
    decode (.regw 0x01010#20 0x02800400#32) = .polyTexcoord 0x02800400#32 := by decide
theorem test_decode_tex :
    decode (.regw 0x02000#20 0x1#32) = .texControl 0x1#32 ∧ decode (.regw 0x02004#20 0x2#32) = .texAddr 0x2#32 ∧
    decode (.regw 0x02008#20 0x35#32) = .texFormat 0x35#32 ∧
    decode (.regw 0xF200C#20 0x3#32) = .texFilter 0x3#32 := by decide
theorem test_decode_render :
    decode (.regw 0x03000#20 0x1#32) = .renderControl 0x1#32 ∧
    decode (.regw 0x03004#20 0x77#32) = .renderZbuffer 0x77#32 ∧
    decode (.regw 0x03008#20 0x2#32) = .renderBlend 0x2#32 := by decide
theorem test_decode_pci_video :
    decode (.regw 0x04010#20 0x12345678#32) = .pciStore 0x004#10 0x12345678#32 ∧
    decode (.regw 0x05000#20 0x200000#32) = .videoFbaddr 0x200000#32 ∧
    decode (.regw 0x05004#20 0x50#32) = .videoStride 0x50#32 := by decide
theorem test_decode_dma :
    decode (.regw 0x06000#20 0x1#32) = .dmaControl 0x1#32 ∧ decode (.regw 0x06004#20 0x1000#32) = .dmaSrc 0x1000#32 ∧
    decode (.regw 0x06008#20 0x2000#32) = .dmaDest 0x2000#32 ∧
    decode (.regw 0x0600C#20 0x10#32) = .dmaCount 0x10#32 := by decide
theorem test_decode_int :
    decode (.regw 0x07008#20 0x5#32) = .intClear 0x5#32 ∧ decode (.regw 0x07000#20 0xF#32) = .intStatus 0xF#32 ∧
    decode (.regw 0x07004#20 0x1#32) = .intMask 0x1#32 ∧
    decode (.regw 0x0700C#20 0x9#32) = .intStore 0x003#10 0x9#32 := by decide
theorem test_decode_fallback_writes :
    decode (.regw 0x30100#20 0xDEADBEEF#32) = .regStore 0#3 0x040#10 0xDEADBEEF#32 ∧
    decode (.regw 0x06010#20 0x1#32) = .regStore 6#3 0x004#10 0x1#32 ∧
    decode (.regw 0x08001#20 0x1#32) = .regUnalignedWr 0x08001#20 0x1#32 ∧
    decode (.regw 0x08000#20 0x1#32) = .regUnknownWr 0x08000#20 0x1#32 := by decide
theorem test_decode_reads :
    decode (.regr 0x00008#20) = .coreStatusRd ∧ decode (.regr 0x07FFC#20) = .regLoad 7#3 0x3FF#10 ∧
    decode (.regr 0x00002#20) = .regUnalignedRd 0x00002#20 ∧
    decode (.regr 0x08000#20) = .regUnknownRd 0x08000#20 := by decide
theorem test_decode_commands :
    decode (.cmd 0x01FFFFFFFF#40) = .cmdVertex 1023#10 1023#10 4095#12 ∧
    decode (.cmd 0x0180100001#40) = .cmdVertex 512#10 256#10 1#12 ∧
    decode (.cmd 0x0201123456#40) = .cmdTexAddr 0x123456#24 ∧
    decode (.cmd 0x0202800400#40) = .cmdTexUv 0x800#12 0x400#12 ∧
    decode (.cmd 0x0203000035#40) = .cmdTexFormat 0x35#24 ∧
    decode (.cmd 0x0200800400#40) = .cmdTexUnknown 0x00#8 0x800400#24 ∧
    decode (.cmd 0x0380402010#40) = .cmdColor 0x80#8 0x40#8 0x20#8 0x10#8 ∧
    decode (.cmd 0x1000000001#40) = .cmdRenderStart 1#32 ∧
    decode (.cmd 0x0400FF00FF#40) = .cmdUnknown 0x04#8 0x00FF00FF#32 := by decide

-- single steps: results from spec/95_test_vectors.md

/-- Some next state of an outcome has a property. -/
def goes (o : Result) (p : State → Bool) : Bool :=
  match o with
  | .next t => p t
  | _ => false

/-- One step on one host event. -/
def on (s : State) (e : HostEvent) : Result := step { s with inbox := [e] }

def idle : State := State.reset

/-- The state while a render's completion is pending (`RD CORE.STATUS` = 0x0D). -/
def busy : State := { setReg regCoreStatus 0x0D#32 idle with timerArmed := true }

/-- The busy state with its FIFO at the capacity. -/
def busyFull : State :=
  { setReg regCoreStatus 0x0E#32 idle with timerArmed := true, fifo := { idle.fifo with count := 64 } }

/-- A slot at a place, of depth 1/2. -/
def at_ (x y : Rat) (c : Rgba) : Slot := ⟨x, y, 1 / 2, 1, 0x800#12, c, 0, 0⟩

def red : Rgba := ⟨1, 0, 0, 1⟩

/-- The triangle of V-R5, flat red. -/
def smallTriangle : Slots := ⟨at_ (1 / 2) (1 / 2) red, at_ (9 / 2) (1 / 2) red, at_ (1 / 2) (9 / 2) red⟩

def smallPolygon : Polygon := ⟨smallTriangle, 0#32, 0#32, 2048, 3⟩

/-- One polygon binned to tile 0. -/
def scene : State := { idle with polys := [smallPolygon], tiles := appendToTiles 0 [0] idle.tiles }

/-- A state with the three DMA parameters set. -/
def dmaState (src dst count : Word) : State :=
  { setReg regDmaCount count (setReg regDmaDest dst (setReg regDmaSrc src idle)) with
    vram := memWrite [] 0x1000 0xA0#8 }

theorem test_coreReset_full : goes (on (setReg regCoreId 0x55#32 (setReg regCoreConfig 3#32 idle)) (.write 0x00010#20 1#32))
    (fun t => getReg t regCoreId == 0x1111#32 && getReg t regCoreConfig == 2#32 && getReg t regCoreReset == 0#32 &&
      t.tileSize == 32) = true := by decide +kernel
theorem test_coreReset_partial :
    goes (on { setReg regTexFormat 0x35#32 (setReg regPolyColor 7#32 idle) with texAddr := 0x12345678#32 }
      (.write 0x00010#20 4#32))
    (fun t => getReg t regTexFormat == 0#32 && getReg t regPolyColor == 7#32 && getReg t regCoreReset == 4#32 &&
      t.texAddr == 0x12345678#32) = true := by decide +kernel
theorem test_coreConfig : goes (on idle (.write 0x0000C#20 3#32))
    (fun t => t.tileSize == 64 && t.tilesX == 2 && t.tilesY == 2) = true := by decide +kernel
theorem test_coreStatus : goes (on idle (.write 0x00008#20 0xFFFFFFFF#32))
    (fun t => getReg t regCoreStatus == 1#32 && t.out == [.diag (.statusWrite 0xFFFFFFFF#32)]) = true := by
  decide +kernel
theorem test_polyControl : goes (on idle (.write 0x01000#20 4#32))
    (fun t => t.curFlags == 4#32 && getReg t regPolyControl == 4#32) = true := by decide +kernel
/-- V-Q1. -/
theorem test_polyVertex_idle : goes (on idle (.write 0x01004#20 0#32))
    (fun t => getReg t regCoreStatus == 1#32 && t.vcount == 1 && t.fifo.rd == 1 && t.fifo.wr == 1) = true := by
  decide +kernel
/-- P3 step 8. -/
theorem test_polyVertex_full : goes (on busyFull (.write 0x01004#20 0x10000000#32))
    (fun t => getReg t regCoreStatus == 0x0E#32 && t.fifo.count == 64 && getReg t regPolyVertex == 0x10000000#32 &&
      t.out == [.diag (.fifoFull 1#8 0x10000000#32)]) = true := by decide +kernel
/-- V-A4, on slot 0. -/
theorem test_polyNormal : goes (on idle (.write 0x01008#20 0x80402010#32))
    (fun t => t.slots.v0.color == ⟨128 / 255, 64 / 255, 32 / 255, 16 / 255⟩) = true := by decide +kernel
/-- V-Q4. -/
theorem test_polyColor : goes (on idle (.write 0x0100C#20 0x00FF00FF#32))
    (fun t => t.slots == idle.slots && getReg t regPolyColor == 0x00FF00FF#32 &&
      t.out == [.diag (.unknownCmd 4#8 0x00FF00FF#32)]) = true := by decide +kernel
/-- V-A3. -/
theorem test_polyTexcoord : goes (on { idle with vcount := 2 } (.write 0x01010#20 0x02800400#32))
    (fun t => t.slots.v2.u == 1 / 2 && t.slots.v2.v == 1 / 4) = true := by decide +kernel
theorem test_texControl : goes (on idle (.write 0x02000#20 5#32))
    (fun t => t.texControl == 5#32 && getReg t regTexControl == 5#32) = true := by decide +kernel
theorem test_texAddr : goes (on idle (.write 0x02004#20 0x12345678#32))
    (fun t => t.texAddr == 0x12345678#32) = true := by decide +kernel
/-- V-F11. -/
theorem test_texFormat : goes (on idle (.write 0x02008#20 0x35#32)) (fun t => t.texDesc == ⟨3#4, 256, 256⟩) = true := by
  decide +kernel
theorem test_texFilter : goes (on idle (.write 0x0200C#20 6#32))
    (fun t => t.texFilter == 6#32 && t.texControl == 0#32) = true := by decide +kernel
/-- V-R11. -/
theorem test_renderControl_start : goes (on idle (.write 0x03000#20 1#32))
    (fun t => getReg t regCoreStatus == 0x0D#32 && t.timerArmed && t.out == [.timerArm 0, .frameChanged] &&
      t.hostMem == []) = true := by decide +kernel
/-- V-F17. -/
theorem test_renderControl_both : goes (on (setReg regRenderZbuffer 0x77#32 idle) (.write 0x03000#20 3#32))
    (fun t => getReg t regCoreStatus == 1#32 && getReg t regRenderControl == 0#32 &&
      getReg t regRenderZbuffer == 0#32 && t.timerArmed) = true := by decide +kernel
theorem test_renderZbuffer : goes (on idle (.write 0x03004#20 0x77#32))
    (fun t => t.renderZbuffer == 0x77#32 && t.renderBlend == 0#32) = true := by decide +kernel
theorem test_renderBlend : goes (on idle (.write 0x03008#20 0x77#32))
    (fun t => t.renderBlend == 0x77#32 && t.renderZbuffer == 0#32) = true := by decide +kernel
/-- V-F14. -/
theorem test_pciStore : goes (on idle (.write 0x04010#20 0x12345678#32))
    (fun t => getReg t ⟨4#3, 4#10⟩ == 0x12345678#32) = true := by decide +kernel
/-- V-F15. -/
theorem test_videoFbaddr : goes (on idle (.write 0x05000#20 0x00200000#32))
    (fun t => t.displayStart == 0x00200000#32 && t.fb == idle.fb) = true := by decide +kernel
/-- V-F16, its first step. -/
theorem test_videoStride : goes (on idle (.write 0x05004#20 0x50#32)) (fun t => t.stride == 80) = true := by
  decide +kernel
/-- V-F19, with one byte. -/
theorem test_dmaControl_both : goes (on (dmaState 0x1000#32 0x3000#32 1#32) (.write 0x06000#20 3#32))
    (fun t => vramByte t 0x3000 == 0xA0#8 && getReg t regDmaStatus == 0#32 && getReg t regDmaSrc == 0#32 &&
      getReg t regCoreStatus == 1#32 && t.timerArmed) = true := by decide +kernel
/-- P4 step 6. -/
theorem test_dmaControl_skip : goes (on (dmaState 0x1000#32 0x2000#32 0x200000#32) (.write 0x06000#20 1#32))
    (fun t => vramByte t 0x2000 == 0#8 && getReg t regDmaStatus == 2#32 && getReg t regCoreStatus == 0x11#32 &&
      t.out == [.timerArm 0, .diag (.dmaRange 0x1000 0x2000 0x200000)]) = true := by decide +kernel
theorem test_dmaSrc : goes (on idle (.write 0x06004#20 0x1000#32)) (fun t => t.dmaSrc == 0x1000#32) = true := by
  decide +kernel
theorem test_dmaDest : goes (on idle (.write 0x06008#20 0x2000#32)) (fun t => t.dmaDest == 0x2000#32) = true := by
  decide +kernel
theorem test_dmaCount : goes (on idle (.write 0x0600C#20 0x10#32)) (fun t => t.dmaCount == 0x10#32) = true := by
  decide +kernel
/-- V-F10. -/
theorem test_intClear : goes (on (setReg regIntStatus 0xF#32 idle) (.write 0x07008#20 5#32))
    (fun t => getReg t regIntStatus == 0xA#32 && getReg t regIntClear == 0#32) = true := by decide +kernel
theorem test_intStatus : goes (on idle (.write 0x07000#20 0xF#32)) (fun t => getReg t regIntStatus == 0xF#32) = true := by
  decide +kernel
theorem test_intMask : goes (on (setReg regIntStatus 1#32 idle) (.write 0x07004#20 0#32))
    (fun t => getReg t regIntStatus == 1#32) = true := by decide +kernel
theorem test_intStore : goes (on idle (.write 0x0700C#20 9#32)) (fun t => getReg t ⟨7#3, 3#10⟩ == 9#32) = true := by
  decide +kernel
/-- V-F2. -/
theorem test_regStore : goes (on idle (.write 0xF0100#20 0xDEADBEEF#32))
    (fun t => getReg t ⟨0#3, 0x040#10⟩ == 0xDEADBEEF#32) = true := by decide +kernel
/-- P4 step 9. -/
theorem test_regUnalignedWr : goes (on idle (.write 0x06001#20 1#32))
    (fun t => t.regs == idle.regs && !t.timerArmed && t.out == [.diag (.unaligned 0x06001#20 (some 1#32))]) = true := by
  decide +kernel
/-- V-F5. -/
theorem test_regUnknownWr : goes (on idle (.write 0x08000#20 1#32))
    (fun t => t.regs == idle.regs && t.out == [.diag (.unknownReg 0x08000#20 true)]) = true := by decide +kernel
/-- V-F8. -/
theorem test_coreStatusRd : goes (on { idle with crtVblank := true } (.read 0x00008#20))
    (fun t => t.out == [.readData 0x41#32] && getReg t regCoreStatus == 0x41#32) = true := by decide +kernel
/-- V-F1. -/
theorem test_regLoad : goes (on idle (.read 0x00000#20)) (fun t => t.out == [.readData 0x1111#32]) = true := by
  decide +kernel
/-- V-F4. -/
theorem test_regUnalignedRd : goes (on idle (.read 0x00002#20))
    (fun t => t.out == [.readData 0xFFFFFFFF#32, .diag (.unaligned 0x00002#20 none)]) = true := by decide +kernel
/-- V-F5. -/
theorem test_regUnknownRd : goes (on idle (.read 0x08000#20))
    (fun t => t.out == [.readData 0xFFFFFFFF#32, .diag (.unknownReg 0x08000#20 false)]) = true := by decide +kernel
/-- V-A1. -/
theorem test_cmdVertex : goes (exec (.cmdVertex 1023#10 1023#10 4095#12) { idle with width := 640, height := 480 })
    (fun t => t.slots.v0.x == 5115 / 8 && t.slots.v0.y == 15345 / 32 && t.slots.v0.z == 4095 / 4096 &&
      t.vcount == 1) = true := by decide +kernel
/-- V-B2: (0,0), (320,0), (0,160) on a 128 by 64 display. -/
theorem test_cmdVertex_third :
    goes (exec (.cmdVertex 0#10 160#10 0x800#12)
      { updateDisplay 128 64 128 32 idle.fb idle with
        vcount := 2, slots := ⟨at_ 0 0 red, at_ 40 0 red, Slot.zero⟩ })
    (fun t => t.vcount == 0 && t.polys.map (·.zkey) == [2048] &&
      t.tiles.map (·.list) == [[0], [0], [], [], [], [], [], []]) = true := by decide +kernel
/-- V-A6. -/
theorem test_cmdTexAddr : goes (exec (.cmdTexAddr 0x123456#24) idle)
    (fun t => t.texAddr == 0x00123456#32 && getReg t regTexAddr == 0#32) = true := by decide +kernel
theorem test_cmdTexUv : goes (exec (.cmdTexUv 0x800#12 0x400#12) idle)
    (fun t => t.slots.v0.u == 1 / 2 && t.slots.v0.v == 1 / 4 && t.slots.v1 == Slot.zero) = true := by decide +kernel
/-- V-A7. -/
theorem test_cmdTexFormat : goes (exec (.cmdTexFormat 0x35#24) idle)
    (fun t => t.texFormatBits == 0x35#32 && t.texDesc == ⟨0#4, 8, 8⟩) = true := by decide +kernel
/-- V-A7. -/
theorem test_cmdTexUnknown : goes (exec (.cmdTexUnknown 0#8 0x800400#24) idle)
    (fun t => t.slots == idle.slots && t.out == [.diag (.unknownCmd 2#8 0x00800400#32)]) = true := by decide +kernel
theorem test_cmdColor : goes (exec (.cmdColor 0xFF#8 0#8 0#8 0xFF#8) { idle with vcount := 1 })
    (fun t => t.slots.v1.color == red && t.slots.v0 == Slot.zero) = true := by decide +kernel
/-- V-R5: 15 pixels, the ones on the edges included. -/
theorem test_cmdRenderStart : goes (exec (.cmdRenderStart 0#32) scene)
    (fun t => t.zbuf.length == 15 && zSample t 256 == 32767#16 && zSample t 257 == 0xFFFF#16 &&
      (List.range 4).map (fbByte t) == [0#8, 0#8, 0xFF#8, 0xFF#8] && fbByte t (4 * 5 + 3) == 0#8 &&
      t.polys.isEmpty) = true := by decide +kernel
/-- V-R8 at 16 bits per pixel, its bytes. -/
theorem test_pixel_rgb565 :
    pixelBytes .exact 16 ⟨0xAB / 255, 0xCD / 255, 0xEF / 255, 0x12 / 255⟩ = [0x7D#8, 0xAE#8] := by decide +kernel
theorem test_cmdUnknown : goes (exec (.cmdUnknown 4#8 0x00FF00FF#32) idle)
    (fun t => t.regs == idle.regs && t.out == [.diag (.unknownCmd 4#8 0x00FF00FF#32)]) = true := by decide +kernel
/-- V-T2. -/
theorem test_timerFire : goes (on (setReg regIntMask 1#32 busy) .timerFire)
    (fun t => getReg t regIntStatus == 1#32 && getReg t regCoreStatus == 0x21#32 && !t.timerArmed) = true := by
  decide +kernel
/-- V-T5. -/
theorem test_timerFire_unarmed : on idle .timerFire = .refused .timerNotArmed := rfl
/-- V-T4: the clipped last column and row. -/
theorem test_updateDisplay : goes (on { idle with vcount := 1 } (.updateDisplay 100 40 128 16 idle.fb))
    (fun t => t.tilesX == 4 && t.tilesY == 2 && t.vcount == 1 &&
      t.tiles[3]? == some ⟨96, 0, 4, 32, []⟩ && t.tiles[7]? == some ⟨96, 32, 4, 8, []⟩) = true := by decide +kernel

/-- A command of the table, laid where the next step finds it, runs in that step. -/
theorem test_withFetchWord_cmd : goes (step (State.reset.withFetchWord 40 0x03FF0000FF))
    (fun t => t.slots.v0.color == red) = true := by decide +kernel
/-- A register access of the table runs in the next step. -/
theorem test_withFetchWord_regw : goes (step (State.reset.withFetchWord 24 0x08000))
    (fun t => t.out == [.diag (.unknownReg 0x08000#20 true)]) = true := by decide +kernel

/-- Bank core is number 6 and bank dma number 0, DMA.CONTROL stands at 0xFFC, its START at bit 31. -/
def rebound : Params :=
  { Params.assumed with
    bankId := { core := 6#3, dma := 0#3 }
    offset := { dmaControl := 0x3FF#10 }
    bits := { dmaStart := 31#5 } }

/-- With rebound tables (R7) the host starts a DMA by bit 31 of the word at 0x00FFC, and finds it there as
written; the bank core is at 0x06000. -/
theorem test_rebound_dma :
    goes (on { dmaState 0x1000#32 0x3000#32 1#32 with cfg := rebound } (.write 0x00FFC#20 0x80000000#32))
      (fun t => vramByte t 0x3000 == 0xA0#8 && getReg t regDmaControl == 0x80000000#32) = true ∧
    homeAddr rebound 0x06008#20 = 0x00008#20 ∧ placeAddr rebound 0x06000#20 = 0x00FFC#20 := by decide +kernel
/-- The key of R241's example under each mode of ZKEY_ROUNDING: "2047 or 2048". -/
theorem test_zkey_modes : [RoundingMode.halfUp, .halfDown, .halfEven, .down].map
    (fun m => zkey m 0x800#12 0x800#12 0x800#12) = [2048, 2047, 2048, 2047] := by decide

-- witnesses: for each obligation with hypotheses, a state and operands that meet them together

theorem goes_next {o : Result} (h : goes o (fun _ => true) = true) : ∃ t, o = .next t := by
  cases o with
  | next t => exact ⟨t, rfl⟩
  | fault r => cases h
  | refused r => cases h

theorem goes_with {o : Result} {p : State → Bool} (h : goes o p = true) : ∃ t, o = .next t ∧ p t = true := by
  cases o with
  | next t => exact ⟨t, rfl, h⟩
  | fault r => cases h
  | refused r => cases h

theorem idle_fifoInv : FifoInv idle :=
  ⟨by decide, by decide +kernel, by decide, by decide, by decide, by decide +kernel, by decide +kernel⟩

theorem busyFull_fifoInv : FifoInv busyFull :=
  ⟨by decide, by decide +kernel, by decide, by decide, by decide, by decide +kernel, fun _ => rfl⟩

theorem witness_DecodeEncode : (Instr.regStore 6#3 0x004#10 1#32).wf = true ∧
    (Instr.cmdVertex 1023#10 0#10 4095#12).wf = true ∧ (Instr.regUnknownRd 0xFFFFC#20).wf = true := by decide
/-- Each clause of AccessDecodeOrder, at the ends of its range. -/
theorem witness_AccessDecodeOrder :
    (0x08001#20).extractLsb' 0 2 ≠ 0#2 ∧ (0x00003#20).extractLsb' 0 2 ≠ 0#2 ∧
    ((0x08000#20).extractLsb' 0 2 = 0#2 ∧ 7 < ((0x08000#20).extractLsb' 12 4).toNat) ∧
    ((0xFFFFC#20).extractLsb' 0 2 = 0#2 ∧ 7 < ((0xFFFFC#20).extractLsb' 12 4).toNat) ∧
    ((0x07FFC#20).extractLsb' 0 2 = 0#2 ∧ ((0x07FFC#20).extractLsb' 12 4).toNat ≤ 7) ∧
    ((0x00000#20).extractLsb' 0 2 = 0#2 ∧ ((0x00000#20).extractLsb' 12 4).toNat ≤ 7) := by decide
/-- A write and a read, under the default tables and under others. -/
theorem witness_StepRunsDecodedAccess :
    (∃ s : State, s.closed = false ∧ s.inbox = [.write 0x01000#20 4#32] ∧ s.cfg.bankId = {} ∧ s.cfg.offset = {}) ∧
    ∃ s : State, s.closed = false ∧ s.inbox = [.read 0x00008#20] ∧ s.cfg = rebound :=
  ⟨⟨{ idle with inbox := [.write 0x01000#20 4#32] }, rfl, rfl, rfl, rfl⟩,
   ⟨{ idle with inbox := [.read 0x00008#20], cfg := rebound }, rfl, rfl, rfl⟩⟩
/-- Tables with entries of their own, distinct ones. -/
theorem witness_EncodeDecode : rebound.wf = true ∧ (bankDma, 0#3) ∈ bankTable rebound ∧
    (regDmaControl.word, 0x3FF#10) ∈ offsetTable rebound bankDma ∧
    (bitStart, 31) ∈ bitTable rebound regDmaControl := by decide +kernel
theorem witness_DispatchRunsDecodedCommand : ∃ t, dispatch 0x10#8 0#32 scene = .next t :=
  goes_next (by decide +kernel)
theorem witness_PassiveStores :
    (Instr.regStore 0#3 0x000#10 0#32).wf = true ∧ (Instr.regStore 6#3 0x004#10 0#32).wf = true ∧
    (Instr.intStore 0x003#10 0#32).wf = true ∧ (Instr.intStore 0x3FF#10 0#32).wf = true := by decide
/-- The lowest and the highest address of each kind of rejected access. -/
theorem witness_RejectedWritesOnlyLog : (0x00001#20).extractLsb' 0 2 ≠ 0#2 ∧ (0xFFFFF#20).extractLsb' 0 2 ≠ 0#2 ∧
    ((0x08000#20).extractLsb' 0 2 = 0#2 ∧ (0x08000#20).getLsbD 15 = true) ∧
    ((0xFFFFC#20).extractLsb' 0 2 = 0#2 ∧ (0xFFFFC#20).getLsbD 15 = true) := by decide
theorem witness_Loads : (0x00002#20).extractLsb' 0 2 ≠ 0#2 ∧
    ((0x08000#20).extractLsb' 0 2 = 0#2 ∧ (0x08000#20).getLsbD 15 = true) ∧
    ((0xF7FFC#20).extractLsb' 0 2 = 0#2 ∧ (0xF7FFC#20).getLsbD 15 = false ∧
      RegName.mk ((0xF7FFC#20).extractLsb' 12 3) ((0xF7FFC#20).extractLsb' 2 10) ≠ regCoreStatus) ∧
    ((0x0000C#20).extractLsb' 0 2 = 0#2 ∧ (0x0000C#20).getLsbD 15 = false ∧
      RegName.mk ((0x0000C#20).extractLsb' 12 3) ((0x0000C#20).extractLsb' 2 10) ≠ regCoreStatus) := by decide
theorem witness_AttributesGoToOpenSlot : (0x02800400#32).extractLsb' 24 8 = 0x02#8 ∧ (1 : Fin 3) ≠ idle.vcount ∧
    idle.cfg.numerics = .exact := by decide
theorem witness_TexCommandsSetState : (0x01FFFFFF#32).extractLsb' 24 8 = 0x01#8 ∧
    (0x03000000#32).extractLsb' 24 8 = 0x03#8 := by decide
theorem witness_UnknownCommandsOnlyLog : (0x00800400#32).extractLsb' 24 8 ∉ [0x01#8, 0x02#8, 0x03#8] ∧
    (0x04FFFFFF#32).extractLsb' 24 8 ∉ [0x01#8, 0x02#8, 0x03#8] ∧ (0x04#8) ∉ [0x01#8, 0x02#8, 0x03#8, 0x10#8] ∧
    (0x11#8) ∉ [0x01#8, 0x02#8, 0x03#8, 0x10#8] := by decide
theorem witness_FullReset : namedBit idle.cfg regCoreReset 0x00000001#32 bitResetCore = true ∧
    namedBit idle.cfg regCoreReset 0xFFFFFFFF#32 bitResetCore = true ∧ idle.cfg.bits = {} := by decide +kernel
theorem witness_PartialResets : namedBit idle.cfg regCoreReset 0x00000000#32 bitResetCore = false ∧
    namedBit idle.cfg regCoreReset 0x0000001E#32 bitResetCore = false := by decide +kernel
theorem witness_Push :
    busyFull.fifo.count = busyFull.cfg.fifoCapacity ∧
    (busy.fifo.count ≠ busy.cfg.fifoCapacity ∧ statusBit busy bitRenderRunning = true) ∧
    (idle.fifo.count ≠ idle.cfg.fifoCapacity ∧ statusBit idle bitRenderRunning = false ∧
      statusBit idle bitDmaBusy = false) := by decide +kernel
/-- A push on the idle block, and the drain of a full FIFO whose entries are all of an unknown id. -/
theorem witness_FifoOrder :
    (FifoInv idle ∧ idle.fifo.count ≠ idle.cfg.fifoCapacity ∧
      Accepted 1#8 0#32 idle (acceptPush 1#8 0#32 idle)) ∧
    FifoInv busyFull ∧ ((fifoLive 64 busyFull.fifo).take 32).length = 32 ∧
      ∃ u, runCommands ((fifoLive busyFull.cfg.fifoCapacity busyFull.fifo).take 32) busyFull = .next u :=
  ⟨⟨idle_fifoInv, by decide, acceptPush_accepted _ _ _⟩, busyFull_fifoInv, by decide +kernel,
   goes_next (by decide +kernel)⟩
theorem witness_ForwardingWritesQueue :
    (statusBit busy bitRenderRunning = true ∧ busy.fifo.count ≠ busy.cfg.fifoCapacity) ∧
    (statusBit busyFull bitRenderRunning = true ∧ busyFull.fifo.count = busyFull.cfg.fifoCapacity) := by
  decide +kernel
/-- The largest display that FB covers, and one with nothing to draw. -/
theorem witness_ForwardingWritesComplete : FbCovers idle ∧ FbCovers { idle with width := 0 } := by decide
theorem witness_IdleForwardRunsCommand : FifoInv idle ∧ idle.fifo.count = 0 ∧
    statusBit idle bitRenderRunning = false ∧ statusBit idle bitDmaBusy = false ∧
    ∃ w, exec (decode (.cmd (cmdWord idle.cfg.fwdIdVertex 0#32)))
      (acceptPush idle.cfg.fwdIdVertex 0#32 (setReg regPolyVertex 0#32 idle)) = .next w :=
  ⟨idle_fifoInv, rfl, by decide +kernel, by decide +kernel, goes_next (by decide +kernel)⟩
theorem witness_RenderControlWithoutStart :
    (namedBit idle.cfg regRenderControl 0#32 bitStart = false ∧ namedBit idle.cfg regRenderControl 0#32 bitReset = false) ∧
    (namedBit idle.cfg regRenderControl 2#32 bitStart = false ∧ namedBit idle.cfg regRenderControl 2#32 bitReset = true) := by
  decide +kernel
theorem witness_RenderControlStart :
    (FbCovers scene ∧ namedBit scene.cfg regRenderControl 1#32 bitStart = true ∧
      namedBit scene.cfg regRenderControl 1#32 bitReset = false) ∧
    (namedBit scene.cfg regRenderControl 3#32 bitStart = true ∧
      namedBit scene.cfg regRenderControl 3#32 bitReset = true) ∧
    (FbCovers busy ∧ statusBit busy bitRenderRunning = true ∧ busy.fifo.count ≠ busy.cfg.fifoCapacity) ∧
    (FbCovers busyFull ∧ busyFull.fifo.count = busyFull.cfg.fifoCapacity) := by decide +kernel
theorem witness_IdleRenderStart : FifoInv idle ∧ FbCovers idle ∧ idle.fifo.count = 0 ∧
    statusBit idle bitRenderRunning = false ∧ statusBit idle bitDmaBusy = false ∧
    namedBit idle.cfg regRenderControl 1#32 bitStart = true ∧
    namedBit idle.cfg regRenderControl 1#32 bitReset = false :=
  ⟨idle_fifoInv, by decide, rfl, by decide +kernel, by decide +kernel, by decide +kernel, by decide +kernel⟩
theorem witness_DmaControlWithoutStart :
    (namedBit idle.cfg regDmaControl 0#32 bitStart = false ∧ namedBit idle.cfg regDmaControl 0#32 bitReset = false) ∧
    (namedBit idle.cfg regDmaControl 2#32 bitStart = false ∧ namedBit idle.cfg regDmaControl 2#32 bitReset = true) := by
  decide +kernel

/-- The premises of a copy. -/
def copyPremises (s : State) : Bool :=
  decide (dmaSource s < s.cfg.vramSize) && decide (dmaTarget s < s.cfg.vramSize) &&
    decide (dmaTarget s + dmaSize s ≤ s.cfg.vramSize) && decide (dmaSource s + dmaSize s ≤ s.cfg.vramSize) &&
    (decide (dmaSource s + dmaSize s ≤ dmaTarget s) || decide (dmaTarget s + dmaSize s ≤ dmaSource s))

/-- In both orders, touching, up to the last byte of VRAM (V-D4), and with no byte to copy. -/
theorem witness_DmaCopies : copyPremises (dmaState 0#32 0xFFFFF#32 1#32) = true ∧
    copyPremises (dmaState 0xFFFF0#32 0xFFFE0#32 16#32) = true ∧
    copyPremises (dmaState 0xFFFFF#32 0xFFFFF#32 0#32) = true ∧
    namedBit idle.cfg regDmaControl 1#32 bitStart = true := by decide +kernel
/-- V-D3, its mirror image, and V-D5. -/
theorem witness_DmaOutOfRangeSkips :
    (dmaState 0x100000#32 0#32 0#32).cfg.vramSize ≤ dmaSource (dmaState 0x100000#32 0#32 0#32) ∧
    (dmaState 0#32 0x100000#32 0#32).cfg.vramSize ≤ dmaTarget (dmaState 0#32 0x100000#32 0#32) ∧
    idle.cfg.vramSize < dmaTarget (dmaState 0#32 0xFFFFF#32 2#32) + dmaSize (dmaState 0#32 0xFFFFF#32 2#32) ∧
    idle.cfg.vramSize < dmaTarget (dmaState 0#32 0#32 0xFFFFFFFF#32) +
      dmaSize (dmaState 0#32 0#32 0xFFFFFFFF#32) ∧ namedBit idle.cfg regDmaControl 1#32 bitStart = true := by decide +kernel
/-- One of the two starts copies, the other fails; the bits stand at the same positions. -/
theorem witness_DmaFailureNotInRegisters :
    (∃ t, exec (.dmaControl 1#32) (dmaState 0x1000#32 0x2000#32 2#32) = .next t) ∧
    ∃ t, exec (.dmaControl 1#32)
      { dmaState 0x1000#32 0x2000#32 2#32 with cfg := { idle.cfg with vramSize := 0x1800 } } = .next t :=
  ⟨goes_next (by decide +kernel), goes_next (by decide +kernel)⟩
theorem witness_VertexFillsOpenSlot : idle.vcount ≠ 2 ∧ ({ idle with vcount := 1 } : State).vcount ≠ 2 ∧
    idle.cfg.numerics = .exact := by decide
/-- With room, up to the last place of the polygon buffer. -/
theorem witness_ThirdVertexFinalizes : ∃ s : State, s.vcount = 2 ∧ s.polyCount ≠ s.cfg.maxPolygons ∧
    s.polyCount + 1 = s.cfg.maxPolygons ∧ s.cfg.numerics = .exact :=
  ⟨{ idle with vcount := 2, cfg := { idle.cfg with maxPolygons := 1 } }, rfl, by decide, rfl, rfl⟩
theorem witness_PolygonOverflow : ∃ s : State, s.vcount = 2 ∧ s.polyCount = s.cfg.maxPolygons ∧
    s.cfg.numerics = .exact :=
  ⟨{ scene with vcount := 2, cfg := { idle.cfg with maxPolygons := 1 } }, rfl, rfl, rfl⟩
/-- A grid with tiles, and an empty one. -/
theorem witness_Binning :
    (∃ t, exec (.cmdVertex 0#10 0#10 0#12) { scene with vcount := 2 } = .next t) ∧
    (∃ tile, scene.tiles[1 * scene.tilesX + 1]? = some tile) ∧ scene.polyCount ≠ scene.cfg.maxPolygons ∧
    ∃ s : State, s.tilesX = 0 ∧ s.vcount = 2 ∧ s.polyCount ≠ s.cfg.maxPolygons ∧
      ∃ t, exec (.cmdVertex 0#10 0#10 0#12) s = .next t :=
  ⟨goes_next (by decide +kernel), ⟨_, rfl⟩, by decide,
   ⟨{ updateDisplay 0 4 4 32 idle.fb idle with vcount := 2 }, rfl, rfl, by decide, goes_next (by decide +kernel)⟩⟩
theorem witness_RenderStart : FbCovers scene ∧ scene.polys ≠ [] := by decide +kernel
theorem witness_EmptySceneChangesNoByte : ∀ tile ∈ idle.tiles, tile.list = [] := by decide +kernel
/-- The frame of the scene, its last pixel of a row; a triangle that is culled one way and kept the other; the
box of a covered pixel, with and without the tile's clip. -/
theorem witness_FrameIsPaintersFold : ((∃ t, exec (.cmdRenderStart 0#32) scene = .next t) ∧
    scene.width ≤ scene.stride ∧ 63 < scene.width ∧ 0 < scene.height ∧ 3 < pixelSize scene.bpp) ∧
    (viewOf scene).cfg.numerics = .exact ∧ culled (viewOf scene) { smallPolygon with flags := 2#32 } = true ∧
    culled (viewOf scene) { smallPolygon with flags := 1#32 } = false ∧
    (viewOf scene).cfg.clipToTile = false ∧ 0 ≤ (viewOf scene).cfg.sampleOffset ∧
    (viewOf scene).cfg.sampleOffset < 1 ∧ degenerate (viewOf scene) smallTriangle = false ∧
    degenerate (viewOf scene) ⟨at_ 1 1 red, at_ 1 1 red, at_ 1 1 red⟩ = true ∧
    covered (weightsAt (viewOf scene) smallTriangle 4 0) = true :=
  ⟨⟨goes_next (by decide +kernel), by decide⟩, by decide +kernel⟩
/-- A triangle, and a pixel whose sample point is each of its vertices. -/
theorem witness_WeightsInterpolate : (viewOf idle).cfg.numerics = .exact ∧ rasterArea .exact smallTriangle ≠ 0 ∧
    (((0 : Nat) : Rat) + (viewOf idle).cfg.sampleOffset = smallTriangle.v0.x ∧
      ((0 : Nat) : Rat) + (viewOf idle).cfg.sampleOffset = smallTriangle.v0.y) ∧
    (((4 : Nat) : Rat) + (viewOf idle).cfg.sampleOffset = smallTriangle.v1.x ∧
      ((0 : Nat) : Rat) + (viewOf idle).cfg.sampleOffset = smallTriangle.v1.y) ∧
    (((0 : Nat) : Rat) + (viewOf idle).cfg.sampleOffset = smallTriangle.v2.x ∧
      ((4 : Nat) : Rat) + (viewOf idle).cfg.sampleOffset = smallTriangle.v2.y) := by decide +kernel

theorem slotOk_at {x y : Rat} (hx : 0 ≤ x) (hy : 0 ≤ y) : SlotOk .exact (at_ x y red) :=
  ⟨rfl, .inl (by decide +kernel : (1 / 2 : Rat) = depthOf .exact 0x800#12), fun _ => hx, fun _ => hy,
   fun _ => (by decide +kernel : red.inUnit = true), fun _ => (by decide +kernel : (0 : Rat) ≤ 0 ∧ (0 : Rat) < 1),
   fun _ => (by decide +kernel : (0 : Rat) ≤ 0 ∧ (0 : Rat) < 1)⟩

theorem smallTriangle_ok : SlotsOk .exact smallTriangle :=
  ⟨slotOk_at (by decide +kernel) (by decide +kernel), slotOk_at (by decide +kernel) (by decide +kernel),
   slotOk_at (by decide +kernel) (by decide +kernel)⟩

/-- A pixel inside, and one whose centre is a vertex (V-R5). -/
theorem witness_DepthOfCoveredPixel : (viewOf idle).cfg.numerics = .exact ∧ SlotsOk .exact smallTriangle ∧
    rasterArea .exact smallTriangle ≠ 0 ∧ covered (weightsAt (viewOf idle) smallTriangle 1 1) = true ∧
    covered (weightsAt (viewOf idle) smallTriangle 4 0) = true :=
  ⟨rfl, smallTriangle_ok, by decide +kernel, by decide +kernel, by decide +kernel⟩
/-- A sample that rejects, and one that passes by being equal. -/
theorem witness_DepthTest :
    (depthPassAndWrite (viewOf idle) { smallPolygon with flags := 4#32 } (weightsAt (viewOf idle) smallTriangle 1 1) 1 1
      [(65, 32766#16)]).isNone = true ∧
    (depthPassAndWrite (viewOf idle) { smallPolygon with flags := 4#32 } (weightsAt (viewOf idle) smallTriangle 1 1) 1 1
      [(65, 32767#16)]).isSome = true := by decide +kernel
/-- The four shading modes, and a covered pixel. -/
theorem witness_ShadeInUnit :
    [0#32, 8#32, 16#32, 24#32].map (fun f => (namedBit (viewOf idle).cfg regPolyControl f bitTextured,
      namedBit (viewOf idle).cfg regPolyControl f bitGouraud)) =
        [(false, false), (false, true), (true, false), (true, true)] ∧
    (viewOf idle).cfg.numerics = .exact ∧ SlotsOk .exact smallPolygon.v ∧ rasterArea .exact smallPolygon.v ≠ 0 ∧
    covered (weightsAt (viewOf idle) smallPolygon.v 1 1) = true ∧
    (viewOf idle).cfg.texPlaceholder.inUnit = true :=
  ⟨by decide +kernel, rfl, smallTriangle_ok, by decide +kernel, by decide +kernel, by decide +kernel⟩
theorem witness_ByteConversion : (0 : Rat) ≤ 0 ∧ (0 : Rat) ≤ 1 ∧ (1 : Rat) ≤ 1 := by decide +kernel
theorem witness_PixelFormats : (8 : Nat) ≠ 16 ∧ (8 : Nat) ≠ 24 ∧ (8 : Nat) ≠ 32 := by decide
theorem witness_TimerFire :
    (∃ s : State, s.closed = false ∧ s.inbox = [.timerFire] ∧ s.timerArmed = true) ∧
    ∃ s : State, s.closed = false ∧ s.inbox = [.timerFire] ∧ s.timerArmed = false :=
  ⟨⟨{ busy with inbox := [.timerFire] }, rfl, rfl, rfl⟩, ⟨{ idle with inbox := [.timerFire] }, rfl, rfl, rfl⟩⟩
/-- A set flag that a partial reset leaves set; and for the second clause the same step. -/
theorem witness_RenderCompleteIsSticky :
    (∃ t, step { setReg regCoreStatus 0x21#32 idle with inbox := [.write 0x00010#20 0x1E#32] } = .next t ∧
      statusBit t bitRenderComplete = true) ∧
    resetsBlock idle.cfg (.write 0x00010#20 0x1E#32) = false ∧
    statusBit (setReg regCoreStatus 0x21#32 idle) bitRenderComplete = true ∧
    HostEvent.write 0x00010#20 0x1E#32 ≠ .timerFire :=
  ⟨goes_with (by decide +kernel), by decide +kernel, by decide +kernel, by decide⟩
theorem witness_UpdateDisplay : ∃ s : State, s.closed = false ∧
    s.inbox = [.updateDisplay 100 40 128 16 ⟨.vram, 0x1000, 10240⟩] :=
  ⟨{ idle with inbox := [.updateDisplay 100 40 128 16 ⟨.vram, 0x1000, 10240⟩] }, rfl, rfl⟩
/-- In a closed block. -/
theorem witness_InitIsDisplayThenFullReset : ∃ s : State, s.closed = true ∧
    s.inbox = [.init 64 64 64 32 ⟨.host, 0, 16384⟩] ∧ namedBit s.cfg regCoreReset 1#32 bitResetCore = true :=
  ⟨{ idle with closed := true, inbox := [.init 64 64 64 32 ⟨.host, 0, 16384⟩] }, rfl, rfl, by decide +kernel⟩
/-- The last pixel of a display whose last tile is clipped. -/
theorem witness_GridPartitionsDisplay : 0 < 32 ∧ 3 < ceilDiv 100 32 ∧ 1 < ceilDiv 40 32 ∧ 99 < 100 ∧ 39 < 40 := by
  decide
/-- A write that starts no DMA, and a fire of the armed timer; a start of a DMA with its source inside VRAM. -/
theorem witness_StepCompletes :
    (∃ s : State, s.inbox = [.timerFire] ∧ s.closed = false ∧ FbCovers s ∧ DmaSourceInside .timerFire s ∧
      s.timerArmed = true) ∧
    ∃ s : State, s.inbox = [.write 0x06000#20 1#32] ∧ s.closed = false ∧ FbCovers s ∧
      DmaSourceInside (.write 0x06000#20 1#32) s ∧ dmaValid s = true :=
  ⟨⟨{ busy with inbox := [.timerFire] }, rfl, rfl, by decide +kernel, fun _ _ h => (by cases h), rfl⟩,
   ⟨{ dmaState 0xFFFF0#32 0xFFFE0#32 16#32 with inbox := [.write 0x06000#20 1#32] }, rfl, rfl, by decide +kernel,
    fun _ _ _ _ _ _ => by decide +kernel, by decide +kernel⟩⟩

/-- The scene with a fire of the timer to come, its completion pending. -/
def running : State :=
  { setReg regCoreStatus 0x0D#32 scene with timerArmed := true, inbox := [.timerFire] }

theorem running_steps : ∃ t, step running = .next t := goes_next (by decide +kernel)

theorem witness_StepKeepsStoreInv : StoreInv running ∧ ∃ t, step running = .next t :=
  ⟨⟨by decide +kernel, by decide +kernel, by decide +kernel, by decide +kernel, by decide +kernel,
    fun n h => by cases h; exact ⟨rfl, by decide⟩⟩, running_steps⟩
theorem witness_StepKeepsFifoInv : FifoInv running ∧ ∃ t, step running = .next t :=
  ⟨⟨by decide, by decide +kernel, by decide, by decide, by decide, by decide +kernel, by decide +kernel⟩,
   running_steps⟩
theorem witness_StepKeepsBinInv : BinInv running ∧ ∃ t, step running = .next t :=
  ⟨⟨by decide +kernel, by decide +kernel, by decide +kernel, by decide +kernel, by decide +kernel,
    by decide +kernel⟩, running_steps⟩
theorem witness_StepKeepsRegisterInv : RegisterInv running ∧ ∃ t, step running = .next t := by
  refine ⟨⟨fun i hi => ?_, by decide +kernel, by decide +kernel⟩, running_steps⟩
  have h : getReg running regCoreStatus = 0x0D#32 := by decide +kernel
  rw [statusBit, regBit, h, namedBit, bitPlace_default rfl, bitOf]
  exact Nat.testBit_lt_two_pow (lt_of_lt_of_le (by decide : (0x0D#32).toNat < 2 ^ 7)
    (Nat.pow_le_pow_right (by decide) hi))
theorem zero_ok : SlotOk .exact Slot.zero :=
  ⟨rfl, .inr ⟨rfl, rfl⟩, fun _ => le_refl _, fun _ => le_refl _, fun _ => by decide +kernel,
   fun _ => by decide +kernel, fun _ => by decide +kernel⟩

theorem witness_StepKeepsVertexInv : VertexInv running ∧ ∃ t, step running = .next t := by
  refine ⟨⟨⟨?_, ?_, ?_⟩, ?_⟩, running_steps⟩
  · exact zero_ok
  · exact zero_ok
  · exact zero_ok
  · intro p hp
    obtain rfl : p = smallPolygon := List.mem_singleton.1 hp
    exact smallTriangle_ok
theorem witness_StepKeepsGateInv : GateInv running ∧ drainGateOpen running = false ∧ ∃ t, step running = .next t :=
  ⟨fun _ => rfl, by decide +kernel, running_steps⟩

end Sys2Proof.Tests
end

section
/-! SUPPORT. What a step can do, said once. A step is a chain of moves, each small enough to be checked against
an invariant on its own and large enough to keep the invariants of the block: a push moves the FIFO and its flags
together, a flag that closes the drain gate goes up only while the timer is armed, and the timer is disarmed only
while the gate is not closed. An invariant that every move keeps is kept by every step (`kept_by_step`). -/

namespace Sys2Proof.Machine

/-- A change outside the fields that the invariants speak of: mirrors of registers, the display, the vertex
count, the ports, the host's events. -/
structure Quiet (s t : State) : Prop where
  cfg : t.cfg = s.cfg := by rfl
  regs : t.regs = s.regs := by rfl
  slots : t.slots = s.slots := by rfl
  polys : t.polys = s.polys := by rfl
  tileSize : t.tileSize = s.tileSize := by rfl
  tilesX : t.tilesX = s.tilesX := by rfl
  tilesY : t.tilesY = s.tilesY := by rfl
  tiles : t.tiles = s.tiles := by rfl
  zbuf : t.zbuf = s.zbuf := by rfl
  zfill : t.zfill = s.zfill := by rfl
  zallocs : t.zallocs = s.zallocs := by rfl
  fifo : t.fifo = s.fifo := by rfl
  timerArmed : t.timerArmed = s.timerArmed := by rfl
  hostMem : t.hostMem = s.hostMem := by rfl
  vram : t.vram = s.vram := by rfl

/-- A register word that an access may replace by a value: never REG.CORE.STATUS (R139) nor REG.INT.CLEAR
(R163), and REG.CORE.RESET only by a value without its bit 0 (R135). -/
structure Storable (p : Params) (r : RegName) (v : Word) : Prop where
  status : r ≠ regCoreStatus
  intClear : r ≠ regIntClear
  reset : r = regCoreReset → namedBit p regCoreReset v bitResetCore = false

/-- The flags of REG.CORE.STATUS that are not the FIFO's. -/
def workFlags : List Nat := [bitRenderBusy, bitRenderRunning, bitDmaBusy, bitRenderComplete, bitVblank]

/-- The flags that close the drain gate (R192). -/
def gateFlags : List Nat := [bitRenderRunning, bitDmaBusy]

/-- The moves of the block. Registers, flags and the timer move alone; the FIFO with its flags, the polygon buffer
with the tiles, ZBUF with its fill, and the grid move as wholes, as their invariants ask. -/
inductive Move : State → State → Prop
  | quiet {s t : State} (h : Quiet s t) : Move s t
  | store {s : State} {r : RegName} {v : Word} (h : Storable s.cfg r v) : Move s (setReg r v s)
  | clear {s : State} {b : BitVec 3} (h : b ≠ bankCore) : Move s (clearBank b s)
  /-- A flag written; one that closes the drain gate goes up only while the timer is armed. -/
  | flag {s : State} {i : Nat} {x : Bool} (h : i ∈ workFlags)
      (ha : x = true → i ∈ gateFlags → s.timerArmed = true) : Move s (setStatus i x s)
  | arm {s : State} : Move s { s with timerArmed := true }
  | disarm {s : State} (h : drainGateOpen s = true) : Move s { s with timerArmed := false }
  | retile {s : State} {v : Word} : Move s { s with tileSize := tileSizeOf v }
  | copy {s : State} {how : DmaOverlap} {src dst n : Nat} : Move s { s with vram := dmaCopy how src dst n s.vram }
  | accept {s : State} {c : CmdId} {d : Word} (h : s.fifo.count ≠ s.cfg.fifoCapacity) : Move s (acceptPush c d s)
  | full {s : State} (h : s.fifo.count = s.cfg.fifoCapacity) : Move s (setStatus bitFifoFull true s)
  | retire {s : State} (h : s.fifo.count ≠ 0) : Move s (retireHead s)
  | slot {s : State} {f : Slot → Slot} (h : ∀ v, SlotOk s.cfg.numerics v → SlotOk s.cfg.numerics (f v)) :
      Move s (updateOpenSlot f s)
  | finalize {s : State} : Move s (finalizePolygon s)
  | frame {s : State} {c : Canvas} (h : renderTiles (viewOf s) s.polys s.tiles ⟨[], fbMemory s⟩ = some c) :
      Move s (finishFrame c s)
  | grid {s : State} {w h : Nat} : Move s (buildGrid w h s)
  | reset {s : State} : Move s (fullReset s)

/-- Moves, one after another. -/
abbrev Moves : State → State → Prop := Relation.ReflTransGen Move

variable {s t : State} {r : RegName} {v : Word}

-- registers

/-- The registers that an access cannot give any value it likes. -/
def guardedRegs : List RegName := [regCoreStatus, regIntClear, regCoreReset]

theorem Storable.of_not_guarded {p : Params} (h : r ∉ guardedRegs) : Storable p r v := by
  simp only [guardedRegs, List.mem_cons, List.not_mem_nil, or_false, not_or] at h
  obtain ⟨hs, hc, hr⟩ := h
  exact ⟨hs, hc, fun e => absurd e hr⟩

theorem guardedRegs_subset_namedWrites : guardedRegs ⊆ namedWrites := by decide

theorem pci_not_guarded (word : BitVec 10) : RegName.mk bankPci word ∉ guardedRegs := by
  intro h
  have hb : bankPci ∈ guardedRegs.map RegName.bank := List.mem_map_of_mem h
  exact absurd hb (by decide)

/-- A register write that may update mirrors and ports besides. -/
theorem moves_of_store (r : RegName) (v : Word) (hq : Quiet (setReg r v s) t) (h : r ∉ guardedRegs := by decide) :
    Moves s t := .tail (.single (.store (.of_not_guarded h))) (.quiet hq)

theorem clearBankIf_moves {i : Nat} {b : BitVec 3} (h : b ≠ bankCore) : Moves s (clearBankIf v i b s) := by
  unfold clearBankIf
  split_ifs
  · exact .single (.clear h)
  · exact .refl

theorem partialResets_moves : Moves s (partialResets v s) :=
  (clearBankIf_moves (by decide)).trans <| (clearBankIf_moves (by decide)).trans <|
    (clearBankIf_moves (by decide)).trans (clearBankIf_moves (by decide))

/-- A flag that does not close the drain gate may be written at any time. -/
theorem Move.lower {i : Nat} (h : i ∈ workFlags) : Move s (setStatus i false s) :=
  .flag h fun e => absurd e (by decide)

theorem execCoreReset_moves (h : execCoreReset v s = .next t) : Moves s t := by
  unfold execCoreReset at h
  split_ifs at h with hb
  · cases h; exact .single .reset
  · cases h
    exact .head (.store ⟨by decide, by decide, fun _ => by simpa using hb⟩) partialResets_moves

-- the DMA engine

/-- The conclusion arms the timer at its end: here the timer counts as armed before it. -/
theorem dmaConclude_moves : Moves { s with timerArmed := true } (dmaConclude s) :=
  (moves_of_store regDmaStatus _ {}).trans (moves_of_store regDmaStatus _ {})

/-- The timer is armed when a start ends, so its busy flag may go up (R300, R304). -/
theorem dmaBegin_moves : Moves s { dmaBegin s with timerArmed := true } :=
  (Relation.ReflTransGen.single .arm).trans
    (.head (.flag (i := bitDmaBusy) (x := true) (by decide) fun _ _ => rfl) (moves_of_store regDmaStatus _ {}))

/-- A DMA start is its busy window, a copy or a diagnostic, and the conclusion (R300 to R304). -/
theorem dmaStart_moves (h : dmaStart s = .next t) : Moves s t := by
  obtain ⟨s1, rfl, ⟨-, -, v, rfl, rfl⟩ | ⟨-, rfl⟩⟩ := dmaStart_eq_next h
  · refine .trans ?_ dmaConclude_moves
    exact dmaBegin_moves.tail .copy
  · refine .trans ?_ dmaConclude_moves
    exact dmaBegin_moves.tail (.quiet {})

theorem dmaBankReset_moves : Moves s (dmaBankReset s) :=
  .tail (.single (.clear (by decide))) (.lower (by decide))

theorem execDmaControl_moves (h : execDmaControl v s = .next t) : Moves s t := by
  unfold execDmaControl at h
  obtain ⟨s2, h1, h2⟩ := andThen_eq_next.1 h
  have stored : Moves s { setReg regDmaControl v s with dmaControl := v } :=
    moves_of_store regDmaControl v {}
  have started : Moves s s2 := by
    split_ifs at h1
    · exact stored.trans (dmaStart_moves h1)
    · cases h1; exact stored
  split_ifs at h2 <;> cases h2
  · exact started.trans dmaBankReset_moves
  · exact started

-- the commands

theorem coordOf_nonneg (x : BitVec 10) (n : Nat) : 0 ≤ coordOf .exact x n := by
  simp only [coordOf, numMul_exact, numDiv_exact]
  positivity

theorem componentOf_exact_mem (x : BitVec 8) : 0 ≤ componentOf .exact x ∧ componentOf .exact x ≤ 1 := by
  have hx : (x.toNat : Rat) ≤ 255 := by exact_mod_cast Nat.le_of_lt_succ x.isLt
  simp only [componentOf, fieldOver, numDiv_exact]
  exact ⟨by positivity, by rw [div_le_one] <;> norm_num [hx]⟩

theorem texCoordOf_exact_mem (x : BitVec 12) : 0 ≤ texCoordOf .exact x ∧ texCoordOf .exact x < 1 := by
  have hx : (x.toNat : Rat) < 4096 := by exact_mod_cast x.isLt
  simp only [texCoordOf, fieldOver, numDiv_exact]
  exact ⟨by positivity, by rw [div_lt_one] <;> norm_num [hx]⟩

theorem colorOf_exact_inUnit (r g b a : BitVec 8) : (colorOf .exact r g b a).inUnit = true := by
  simp [Rgba.inUnit, colorOf, componentOf_exact_mem]

variable {n : Numerics} {w : Slot}

/-- A position from the fields of CMD.VERTEX is in its range (R23, R211). -/
theorem SlotOk.place (h : SlotOk n w) (x y : BitVec 10) (z : BitVec 12) (width height : Nat) :
    SlotOk n (placeVertex n x y z width height w) where
  w := rfl
  z := .inl rfl
  x := by rintro rfl; exact coordOf_nonneg x width
  y := by rintro rfl; exact coordOf_nonneg y height
  color := h.color
  u := h.u
  v := h.v

/-- So are texture coordinates from CMD.TEX.UV (R214). -/
theorem SlotOk.uv (h : SlotOk n w) (x y : BitVec 12) :
    SlotOk n { w with u := texCoordOf n x, v := texCoordOf n y } :=
  { h with
    u := by rintro rfl; exact texCoordOf_exact_mem x
    v := by rintro rfl; exact texCoordOf_exact_mem y }

/-- So is a colour from CMD.COLOR (R216). -/
theorem SlotOk.paint (h : SlotOk n w) (r g b a : BitVec 8) : SlotOk n { w with color := colorOf n r g b a } :=
  { h with color := by rintro rfl; exact colorOf_exact_inUnit r g b a }

/-- What finalize writes, stored or dropped: the polygon buffer, the tiles and the ports (R240, R246). -/
theorem finalizePolygon_rest (s : State) : finalizePolygon s = { s with
    polys := (finalizePolygon s).polys
    tiles := (finalizePolygon s).tiles
    out := (finalizePolygon s).out } := by
  rcases finalizePolygon_cases s with ⟨-, e⟩ | ⟨-, e⟩
  · rw [e]; rfl
  · rw [e]

theorem execCmdVertex_moves {x y : BitVec 10} {z : BitVec 12} (h : execCmdVertex x y z s = .next t) : Moves s t := by
  have placed : Move s (updateOpenSlot (placeVertex s.cfg.numerics x y z s.width s.height) s) :=
    .slot fun _ hv => hv.place x y z s.width s.height
  unfold execCmdVertex at h
  simp only at h
  split_ifs at h <;> cases h
  · exact .tail (.tail (.single placed) .finalize) (.quiet {})
  · exact .tail (.single placed) (.quiet {})

/-- A render start is the scene and its busy window; the timer is armed when it ends, so the flags may go up
(R218). -/
theorem execCmdRenderStart_moves {d : Word} (h : execCmdRenderStart d s = .next t) : Moves s t := by
  unfold execCmdRenderStart at h
  obtain ⟨s1, h1, h2⟩ := andThen_eq_next.1 h
  obtain ⟨c, hc, rfl⟩ := renderScene_eq_next h1
  cases h2
  have raised : Moves s (raiseRenderBusy { finishFrame c s with timerArmed := true }) :=
    .tail (.tail (.tail (.single (.frame hc)) .arm) (.flag (by decide) fun _ _ => rfl))
      (.flag (by decide) fun _ _ => rfl)
  exact raised.tail (.quiet {})

theorem dispatch_moves {c : CmdId} {d : Word} (h : dispatch c d s = .next t) : Moves s t := by
  unfold dispatch at h
  split_ifs at h
  · exact execCmdVertex_moves h
  · cases h; exact .single (.quiet {})
  · cases h; exact .single (.slot fun _ hv => hv.uv _ _)
  · cases h; exact .single (.quiet {})
  · cases h; exact .single (.quiet {})
  · cases h; exact .single (.slot fun _ hv => hv.paint _ _ _ _)
  · exact execCmdRenderStart_moves h
  · cases h; exact .single (.quiet {})

-- the FIFO

/-- Retiring an entry writes the FIFO's two flags and no other (R193). -/
theorem statusBit_retireHead_of_not_mem {i : Nat} (h : i ∉ [bitFifoEmpty, bitFifoFull]) :
    statusBit (retireHead s) i = statusBit s i := by
  simp only [List.mem_cons, List.not_mem_nil, or_false, not_or] at h
  obtain ⟨he, hf⟩ := h
  rw [statusBit_retireHead, if_neg hf, if_neg he]

theorem drain_moves (h : drain s = .next t) : Moves s t := by
  refine drainLoop_induct (P := Moves s) (fun a b ha hc hd => ?_) .refl h
  have hf : b.fifo = a.fifo := (congrArg State.fifo (dispatch_keeps hd).rest :)
  exact (ha.trans (dispatch_moves hd)).tail (.retire (by rwa [hf]))

theorem push_moves {c : CmdId} {d : Word} (h : push c d s = .next t) : Moves s t := by
  rcases push_cases c d s with ⟨hc, e⟩ | ⟨hc, -, e⟩ | ⟨hc, -, e⟩ <;> rw [e] at h
  · cases h
    exact .head (.quiet (t := diag (.fifoFull c d) s) {}) (.single (.full hc))
  · exact .head (.accept hc) (drain_moves h)
  · cases h; exact .single (.accept hc)

theorem storeAndForward_moves {c : CmdId} (hr : r ∉ guardedRegs) (h : storeAndForward r c v s = .next t) :
    Moves s t := .head (.store (.of_not_guarded hr)) (push_moves h)

theorem renderBankReset_moves : Moves s (renderBankReset s) :=
  .tail (.tail (.single (.clear (by decide))) (.lower (by decide))) (.lower (by decide))

theorem execRenderControl_moves (h : execRenderControl v s = .next t) : Moves s t := by
  unfold execRenderControl at h
  obtain ⟨s2, h1, h2⟩ := andThen_eq_next.1 h
  have stored : Moves s { setReg regRenderControl v s with renderControl := v } :=
    moves_of_store regRenderControl v {}
  have started : Moves s s2 := by
    split_ifs at h1
    · exact (stored.tail (.flag (by decide) fun _ hi => absurd hi (by decide))).trans (push_moves h1)
    · cases h1; exact stored
  split_ifs at h2 <;> cases h2
  · exact started.trans renderBankReset_moves
  · exact started

-- one instruction

/-- A well-formed instruction is a chain of moves. -/
theorem exec_moves {i : Instr} (hw : i.wf = true) (h : exec i s = .next t) : Moves s t := by
  cases i with
  | coreReset v => exact execCoreReset_moves h
  | coreConfig v => cases h; exact (moves_of_store regCoreConfig v {}).tail .retile
  | coreStatus v => cases h; exact .single (.quiet {})
  | polyControl v => cases h; exact moves_of_store regPolyControl v {}
  | polyVertex v => exact storeAndForward_moves (by decide) h
  | polyNormal v => exact storeAndForward_moves (by decide) h
  | polyColor v => exact storeAndForward_moves (by decide) h
  | polyTexcoord v => exact storeAndForward_moves (by decide) h
  | texControl v => cases h; exact moves_of_store regTexControl v {}
  | texAddr v => cases h; exact moves_of_store regTexAddr v {}
  | texFormat v => cases h; exact moves_of_store regTexFormat v {}
  | texFilter v => cases h; exact moves_of_store regTexFilter v {}
  | renderControl v => exact execRenderControl_moves h
  | renderZbuffer v => cases h; exact moves_of_store regRenderZbuffer v {}
  | renderBlend v => cases h; exact moves_of_store regRenderBlend v {}
  | pciStore word v => cases h; exact moves_of_store ⟨bankPci, word⟩ v {} (pci_not_guarded word)
  | videoFbaddr v => cases h; exact moves_of_store regVideoFbaddr v {}
  | videoStride v => cases h; exact moves_of_store regVideoStride v {}
  | dmaControl v => exact execDmaControl_moves h
  | dmaSrc v => cases h; exact moves_of_store regDmaSrc v {}
  | dmaDest v => cases h; exact moves_of_store regDmaDest v {}
  | dmaCount v => cases h; exact moves_of_store regDmaCount v {}
  | intClear v => cases h; exact moves_of_store regIntStatus _ {}
  | intStatus v => cases h; exact moves_of_store regIntStatus _ {}
  | intMask v => cases h; exact moves_of_store regIntMask _ {}
  | intStore word v =>
    have hn : RegName.mk bankInt word ∉ namedWrites := by simpa [Instr.wf] using hw
    cases h; exact moves_of_store ⟨bankInt, word⟩ v {} fun hg => hn (guardedRegs_subset_namedWrites hg)
  | regStore bank word v =>
    simp only [Instr.wf, Bool.and_eq_true, decide_eq_true_eq] at hw
    obtain ⟨⟨hn, -⟩, -⟩ := hw
    cases h; exact moves_of_store ⟨bank, word⟩ v {} fun hg => hn (guardedRegs_subset_namedWrites hg)
  | regUnalignedWr addr v => cases h; exact .single (.quiet {})
  | regUnknownWr addr v => cases h; exact .single (.quiet {})
  | coreStatusRd =>
    cases h
    exact .tail (.single (.flag (i := bitVblank) (by decide) fun _ hi => absurd hi (by decide))) (.quiet {})
  | regLoad bank word => cases h; exact .single (.quiet {})
  | regUnalignedRd addr => cases h; exact .single (.quiet {})
  | regUnknownRd addr => cases h; exact .single (.quiet {})
  | cmdVertex x y z => exact execCmdVertex_moves h
  | cmdTexAddr arg => cases h; exact .single (.quiet {})
  | cmdTexUv x y => cases h; exact .single (.slot fun _ hv => hv.uv x y)
  | cmdTexFormat arg => cases h; exact .single (.quiet {})
  | cmdTexUnknown sub arg => cases h; exact .single (.quiet {})
  | cmdColor r g b a => cases h; exact .single (.slot fun _ hv => hv.paint r g b a)
  | cmdRenderStart d => exact execCmdRenderStart_moves (d := d) h
  | cmdUnknown c d => cases h; exact .single (.quiet {})

-- one event

theorem drainGateOpen_fireFlags : drainGateOpen (fireFlags s) = true := by
  simp [drainGateOpen, statusBit_fireFlags, bitRenderRunning, bitDmaBusy, bitRenderComplete]

theorem fireFlags_moves : Moves s (fireFlags s) := by
  have lowered : Moves s (setStatus bitRenderComplete true (setStatus bitDmaBusy false
      (setStatus bitRenderBusy false (setStatus bitRenderRunning false s)))) :=
    .tail (.tail (.tail (.single (.lower (by decide))) (.lower (by decide))) (.lower (by decide)))
      (.flag (by decide) fun _ hi => absurd hi (by decide))
  unfold fireFlags raiseCompletion
  split_ifs
  · exact lowered.tail (.store (.of_not_guarded (by decide)))
  · exact lowered

/-- The flags of a fire do not depend on the timer. -/
theorem fireFlags_timerArmed (x : Bool) :
    fireFlags { s with timerArmed := x } = { fireFlags s with timerArmed := x } := by
  unfold fireFlags raiseCompletion
  split_ifs with h1 h2 h2
  · rfl
  · exact absurd h1 h2
  · exact absurd h2 h1
  · rfl

/-- A fire opens the gate before the timer counts as disarmed (R316). -/
theorem timerFire_moves (h : timerFire s = .next t) : Moves s t := by
  unfold timerFire at h
  split_ifs at h
  rw [fireFlags_timerArmed] at h
  exact (fireFlags_moves.tail (.disarm drainGateOpen_fireFlags)).trans (drain_moves h)

/-- The flags right after a full reset (R33, R56). -/
theorem statusBit_of_seedRegs (h : s.regs = seedRegs s.cfg) (i : Nat) :
    statusBit s i = decide (i = bitFifoEmpty) := by
  rw [statusBit, regBit, getReg_of_seedRegs h, if_neg (by decide), if_neg (by decide), if_pos rfl, bitOf_statusSeed]

theorem drainGateOpen_of_seedRegs (h : s.regs = seedRegs s.cfg) : drainGateOpen s = true := by
  simp [drainGateOpen, statusBit_of_seedRegs h, bitRenderRunning, bitDmaBusy, bitFifoEmpty]

/-- An `init` binds the display and resets the block, which opens the gate, before the timer counts as disarmed
(R324). -/
theorem initBlock_moves {w h st d : Nat} {fb : FbRef} : Moves s (initBlock w h st d fb s) := by
  have bound : Moves s { bindDisplay w h st d fb s with closed := false } := .single (.quiet {})
  exact (bound.tail .reset).tail (.disarm (drainGateOpen_of_seedRegs rfl))

theorem runEvent_moves {e : HostEvent} (h : runEvent e s = .next t) : Moves s t := by
  cases e with
  | write addr value => exact exec_moves (decode_wf _) h
  | read addr => exact exec_moves (decode_wf _) h
  | timerFire => exact timerFire_moves h
  | updateDisplay w ht st d fb =>
    cases h
    exact .tail (.single (.quiet (t := bindDisplay w ht st d fb s) {})) .grid
  | init w ht st d fb => cases h; exact initBlock_moves
  | close => cases h; exact .single (.quiet {})
  | vblank level => cases h; exact .single (.quiet {})

/-- A step is a chain of moves. -/
theorem step_moves (h : step s = .next t) : Moves s t := by
  obtain ⟨e, rest, -, -, he⟩ := step_eq_next h
  exact .head (.quiet (t := { s with inbox := rest }) {}) (runEvent_moves he)

/-- What every move keeps, every step keeps. -/
theorem kept_by_step {P : State → Prop} (keep : ∀ s t, Move s t → P s → P t) (hs : P s) (h : step s = .next t) :
    P t := by
  have moves := step_moves h
  clear h
  induction moves with
  | refl => exact hs
  | tail _ hm ih => exact keep _ _ hm ih

end Sys2Proof.Machine
end

section
/-! SUPPORT. The six invariants of the block. Of each: that it depends on a few fields only, that every move keeps
it, and so that every step does; at the end that the reset state has all of them. -/

namespace Sys2Proof.Machine

variable {s t : State}

-- the stores (R29, R30, R72, R73)

theorem StoreInv.of_eq (h : StoreInv s) (hr : t.regs = s.regs := by rfl) (hm : t.hostMem = s.hostMem := by rfl)
    (hv : t.vram = s.vram := by rfl) (hz : t.zbuf = s.zbuf := by rfl) (hf : t.zfill = s.zfill := by rfl)
    (ha : t.zallocs = s.zallocs := by rfl) : StoreInv t where
  regs := by rw [hr]; exact h.regs
  regKeys := by rw [hr]; exact h.regKeys
  hostMem := by rw [hm]; exact h.hostMem
  vram := by rw [hv]; exact h.vram
  zbuf := by rw [hz]; exact h.zbuf
  zfresh := by rw [hf, hz, ha]; exact h.zfresh

/-- A write adds no key but its own. -/
theorem mem_cellsWrite {n k : Nat} {d x : BitVec n} {m : Cells n} {c : Nat × BitVec n}
    (h : c ∈ cellsWrite d m k x) : c.1 = k ∨ c ∈ m := by
  unfold cellsWrite at h
  split_ifs at h
  · exact .inr (List.mem_of_mem_filter h)
  · exact (mem_cellsInsert h).imp (congrArg Prod.fst) id

theorem StoreInv.setReg (h : StoreInv s) (r : RegName) (v : Word) : StoreInv (setReg r v s) :=
  { h with
    regs := cellsWf_write h.regs
    regKeys := fun c hc => (mem_cellsWrite hc).elim (fun e => e ▸ key_lt r) (h.regKeys c) }

theorem StoreInv.clearBank (h : StoreInv s) (b : BitVec 3) : StoreInv (clearBank b s) :=
  { h with
    regs := by rw [clearBank_regs]; exact cellsWf_clear _ h.regs
    regKeys := fun c hc => h.regKeys c (List.mem_of_mem_filter hc) }

/-- A list of register words, written one after another. -/
theorem foldl_cellsWrite_wf (es : List (RegName × Word)) {m : Cells 32} (hw : cellsWf regDefault m = true)
    (hk : ∀ c ∈ m, c.1 < 8192) :
    cellsWf regDefault (es.foldl (fun m e => cellsWrite regDefault m e.1.key e.2) m) = true ∧
      ∀ c ∈ es.foldl (fun m e => cellsWrite regDefault m e.1.key e.2) m, c.1 < 8192 := by
  induction es generalizing m with
  | nil => exact ⟨hw, hk⟩
  | cons e es ih =>
    exact ih (cellsWf_write hw) fun c hc => (mem_cellsWrite hc).elim (fun k => k ▸ key_lt e.1) (hk c)

/-- The registers that a full reset seeds are in canonical form. -/
theorem seedRegs_wf (p : Params) : cellsWf regDefault (seedRegs p) = true ∧ ∀ c ∈ seedRegs p, c.1 < 8192 :=
  foldl_cellsWrite_wf _ cellsWf_nil (by simp)

theorem StoreInv.buildGrid (h : StoreInv s) (w ht : Nat) : StoreInv (buildGrid w ht s) :=
  { h with
    zbuf := cellsWf_nil
    zfresh := fun _ e => ⟨rfl, by cases e; exact Nat.lt_succ_self _⟩ }

theorem StoreInv.fullReset (h : StoreInv s) : StoreInv (fullReset s) :=
  StoreInv.buildGrid (s := resetPipeline s)
    { h with regs := (seedRegs_wf s.cfg).1, regKeys := (seedRegs_wf s.cfg).2 } s.width s.height

theorem StoreInv.fbMemory (h : StoreInv s) : Memory.wf (fbMemory s) = true := by
  unfold Machine.fbMemory
  split
  · exact h.hostMem
  · exact h.vram

theorem StoreInv.setFbMemory (h : StoreInv s) {m : Memory} (hm : Memory.wf m = true) : StoreInv (setFbMemory m s) := by
  unfold Machine.setFbMemory
  split
  · exact { h with hostMem := hm }
  · exact { h with vram := hm }

theorem StoreInv.finishFrame (h : StoreInv s) {c : Canvas} (hc : c.wf) : StoreInv (finishFrame c s) :=
  { h.setFbMemory hc.2 with zbuf := hc.1, zfresh := fun _ e => nomatch e }

theorem StoreInv.acceptPush (h : StoreInv s) (c : CmdId) (d : Word) : StoreInv (acceptPush c d s) := by
  have queued : StoreInv { s with fifo := fifoPut s.cfg.fifoCapacity ⟨c, d⟩ s.fifo } := h.of_eq
  unfold Machine.acceptPush
  simp only
  split_ifs
  · exact (queued.setReg _ _).setReg _ _
  · exact queued.setReg _ _

theorem StoreInv.retireHead (h : StoreInv s) : StoreInv (retireHead s) := by
  have popped : StoreInv { s with fifo := fifoPop s.cfg.fifoCapacity s.fifo } := h.of_eq
  unfold Machine.retireHead
  simp only
  split_ifs
  · exact (popped.setReg _ _).setReg _ _
  · exact popped.setReg _ _

theorem StoreInv.move (hm : Move s t) (h : StoreInv s) : StoreInv t := by
  cases hm with
  | quiet q => exact h.of_eq q.regs q.hostMem q.vram q.zbuf q.zfill q.zallocs
  | store _ => exact h.setReg _ _
  | clear _ => exact h.clearBank _
  | flag _ _ => exact h.setReg _ _
  | arm => exact h.of_eq
  | disarm _ => exact h.of_eq
  | retile => exact h.of_eq
  | copy => exact { h with vram := memWf_dmaCopy h.vram }
  | accept _ => exact h.acceptPush _ _
  | full _ => exact h.setReg _ _
  | retire _ => exact h.retireHead
  | slot _ => exact h.of_eq
  | finalize => rw [finalizePolygon_rest]; exact h.of_eq
  | frame hr => exact h.finishFrame (renderTiles_wf ⟨cellsWf_nil, h.fbMemory⟩ hr)
  | grid => exact h.buildGrid _ _
  | reset => exact h.fullReset

/-- Settles O54: every move keeps the stores in canonical form. -/
theorem stepKeepsStoreInv : Obligations.StepKeepsStoreInv := fun _ _ hs h =>
  kept_by_step (fun _ _ => StoreInv.move) hs h

-- the FIFO (R49, R55)

theorem FifoInv.of_eq (h : FifoInv s) (hc : t.cfg = s.cfg) (hf : t.fifo = s.fifo)
    (he : statusBit t bitFifoEmpty = statusBit s bitFifoEmpty)
    (hl : statusBit t bitFifoFull = statusBit s bitFifoFull) : FifoInv t where
  capacity := by rw [hc]; exact h.capacity
  length := by rw [hc, hf]; exact h.length
  rd := by rw [hc, hf]; exact h.rd
  count := by rw [hc, hf]; exact h.count
  wr := by rw [hc, hf]; exact h.wr
  empty := by rw [hf, he]; exact h.empty
  full := by rw [hc, hf, hl]; exact h.full

theorem FifoInv.of_regs (h : FifoInv s) (hc : t.cfg = s.cfg := by rfl) (hf : t.fifo = s.fifo := by rfl)
    (hr : t.regs = s.regs := by rfl) : FifoInv t :=
  h.of_eq hc hf (statusBit_congr hr hc) (statusBit_congr hr hc)

/-- The write cursor after a push: one entry further (R49, R190). -/
theorem FifoInv.acceptPush (h : FifoInv s) (hn : s.fifo.count ≠ s.cfg.fifoCapacity) (c : CmdId) (d : Word) :
    FifoInv (acceptPush c d s) := by
  have hcfg : (Machine.acceptPush c d s).cfg = s.cfg := (congrArg State.cfg (acceptPush_rest c d s) :)
  have a := acceptPush_accepted c d s
  constructor <;> simp only [hcfg, a.fifo, a.empty, a.full]
  · exact h.capacity
  · rw [List.length_set]; exact h.length
  · exact h.rd
  · have := h.count; omega
  · rw [h.wr, Nat.mod_add_mod, Nat.add_assoc]
  · simp
  · intro hf
    rcases Bool.or_eq_true _ _ ▸ hf with hf | hf
    · exact absurd (h.full hf) hn
    · exact of_decide_eq_true hf

/-- The read cursor after a retired entry: one entry further, the write cursor where it was (R49, R193). -/
theorem FifoInv.retireHead (h : FifoInv s) (hn : s.fifo.count ≠ 0) : FifoInv (retireHead s) := by
  have hcfg : (Machine.retireHead s).cfg = s.cfg := (congrArg State.cfg (retireHead_rest s) :)
  have hfifo : (Machine.retireHead s).fifo = fifoPop s.cfg.fifoCapacity s.fifo :=
    (congrArg State.fifo (retireHead_rest s) :)
  constructor <;> simp only [hcfg, hfifo, fifoPop, statusBit_retireHead]
  · exact h.capacity
  · exact h.length
  · exact Nat.mod_lt _ h.capacity
  · have := h.count; omega
  · rw [h.wr, Nat.mod_add_mod]; congr 1; omega
  · rw [if_neg (by decide), if_pos trivial, h.empty, decide_eq_false hn, Bool.or_false]
    rfl
  · simp

theorem FifoInv.fullReset (hc : 1 ≤ s.cfg.fifoCapacity) (hl : s.fifo.entry.length = s.cfg.fifoCapacity) :
    FifoInv (fullReset s) where
  capacity := hc
  length := hl
  rd := hc
  count := Nat.zero_le _
  wr := (Nat.zero_mod _).symm
  empty := statusBit_of_seedRegs rfl _
  full e := by rw [statusBit_of_seedRegs rfl] at e; exact absurd e (by decide)

theorem FifoInv.setStatus (h : FifoInv s) {i : Nat} (hi : i ∈ workFlags) (x : Bool) : FifoInv (setStatus i x s) := by
  have hb : ∀ i ∈ workFlags, i < 32 ∧ i ≠ bitFifoEmpty ∧ i ≠ bitFifoFull := by decide
  obtain ⟨hlt, he, hf⟩ := hb i hi
  exact h.of_eq rfl rfl (by rw [statusBit_setStatus hlt, if_neg he]) (by rw [statusBit_setStatus hlt, if_neg hf])

theorem FifoInv.setFull (h : FifoInv s) (hn : s.fifo.count = s.cfg.fifoCapacity) :
    FifoInv (Machine.setStatus bitFifoFull true s) where
  capacity := h.capacity
  length := h.length
  rd := h.rd
  count := h.count
  wr := h.wr
  empty := by rw [statusBit_setStatus (by decide), if_neg (by decide)]; exact h.empty
  full _ := hn

theorem FifoInv.move (hm : Move s t) (h : FifoInv s) : FifoInv t := by
  cases hm with
  | quiet q => exact h.of_regs q.cfg q.fifo q.regs
  | store hr => exact h.of_eq rfl rfl (statusBit_setReg_of_ne hr.status) (statusBit_setReg_of_ne hr.status)
  | clear hb => exact h.of_eq rfl rfl (statusBit_clearBank hb) (statusBit_clearBank hb)
  | flag hi _ => exact h.setStatus hi _
  | arm => exact h.of_regs
  | disarm _ => exact h.of_regs
  | retile => exact h.of_regs
  | copy => exact h.of_regs
  | accept hn => exact h.acceptPush hn _ _
  | full hn => exact h.setFull hn
  | retire hn => exact h.retireHead hn
  | slot _ => exact h.of_regs
  | finalize => rw [finalizePolygon_rest]; exact h.of_regs
  | frame _ => exact h.of_regs (by simp [finishFrame]) (by simp [finishFrame]) (by simp [finishFrame])
  | grid => exact h.of_regs
  | reset => exact .fullReset h.capacity h.length

/-- Settles O55: every move keeps the FIFO's cursors, its count and its two flags in agreement. -/
theorem stepKeepsFifoInv : Obligations.StepKeepsFifoInv := fun _ _ hs h =>
  kept_by_step (fun _ _ => FifoInv.move) hs h

-- the polygon buffer and the tiles (R27, R28, R55)

theorem BinInv.of_eq (h : BinInv s) (hc : t.cfg = s.cfg := by rfl) (hp : t.polys = s.polys := by rfl)
    (ht : t.tiles = s.tiles := by rfl) (hx : t.tilesX = s.tilesX := by rfl) (hy : t.tilesY = s.tilesY := by rfl)
    (hs : t.tileSize = s.tileSize := by rfl) : BinInv t where
  polyBound := by rw [State.polyCount, hp, hc]; exact h.polyBound
  vertices := by rw [hp]; exact h.vertices
  keys := by rw [hp]; exact h.keys
  tileCount := by rw [ht, hx, hy]; exact h.tileCount
  tileRefs := by rw [ht, State.polyCount, hp]; exact h.tileRefs
  tileSize := by rw [hs]; exact h.tileSize

theorem tileSizeOf_mem (v : Word) : tileSizeOf v ∈ [8, 16, 32, 64] := by
  rw [tileSizeOf_eq]
  have : v.toNat % 4 < 4 := Nat.mod_lt _ (by decide)
  interval_cases v.toNat % 4 <;> decide

theorem length_gridTiles (ts w h : Nat) : (gridTiles ts w h).length = ceilDiv w ts * ceilDiv h ts := by
  simp [gridTiles, List.length_flatMap, Nat.mul_comm]

/-- The tiles of a new grid have empty lists. -/
theorem gridTiles_list {ts w h : Nat} {tile : Tile} (ht : tile ∈ gridTiles ts w h) : tile.list = [] := by
  simp only [gridTiles, List.mem_flatMap, List.mem_map] at ht
  obtain ⟨_, -, _, -, rfl⟩ := ht
  rfl

theorem BinInv.buildGrid (h : BinInv s) (w ht : Nat) : BinInv (buildGrid w ht s) :=
  { h with
    tileCount := length_gridTiles _ _ _
    tileRefs := fun tile hm p hp => by rw [gridTiles_list hm] at hp; cases hp }

theorem BinInv.fullReset (s : State) : BinInv (fullReset s) where
  polyBound := Nat.zero_le _
  vertices p hp := by cases hp
  keys p hp := by cases hp
  tileCount := length_gridTiles _ _ _
  tileRefs tile hm p hp := by rw [gridTiles_list hm] at hp; cases hp
  tileSize := tileSizeOf_mem _

theorem BinInv.finishFrame (h : BinInv s) (c : Canvas) : BinInv (finishFrame c s) where
  polyBound := Nat.zero_le _
  vertices p hp := by cases hp
  keys p hp := by cases hp
  tileCount := by simpa [Machine.finishFrame] using h.tileCount
  tileRefs tile hm p hp := by
    obtain ⟨tile0, -, rfl⟩ := List.mem_map.1 hm
    cases hp
  tileSize := by simpa [Machine.finishFrame] using h.tileSize

/-- A polygon stored has the key of R241, and the references to it are the only new ones (R240, R244). -/
theorem BinInv.finalizePolygon (h : BinInv s) : BinInv (finalizePolygon s) := by
  rcases finalizePolygon_cases s with ⟨-, e⟩ | ⟨hn, e⟩ <;> rw [e]
  · exact h.of_eq
  · have hcount : (s.polys ++ [assembledPolygon s]).length = s.polyCount + 1 := List.length_append
    constructor <;> simp only [State.polyCount, hcount, List.mem_append, List.mem_singleton]
    · exact Nat.lt_of_le_of_ne h.polyBound hn
    · rintro p (hp | rfl)
      · exact h.vertices p hp
      · rfl
    · rintro p (hp | rfl)
      · exact h.keys p hp
      · exact zkey_le _ _ _ _
    · rw [length_appendToTiles]; exact h.tileCount
    · intro tile ht p hp
      rcases mem_appendToTiles ht hp with rfl | ⟨tile0, h0, hp0⟩
      · exact Nat.lt_succ_self _
      · exact Nat.lt_succ_of_lt (h.tileRefs tile0 h0 p hp0)
    · exact h.tileSize

theorem BinInv.move (hm : Move s t) (h : BinInv s) : BinInv t := by
  cases hm with
  | quiet q => exact h.of_eq q.cfg q.polys q.tiles q.tilesX q.tilesY q.tileSize
  | store _ => exact h.of_eq
  | clear _ => exact h.of_eq
  | flag _ _ => exact h.of_eq
  | arm => exact h.of_eq
  | disarm _ => exact h.of_eq
  | retile => exact { h with tileSize := tileSizeOf_mem _ }
  | copy => exact h.of_eq
  | accept _ => rw [acceptPush_rest]; exact h.of_eq
  | full _ => exact h.of_eq
  | retire _ => rw [retireHead_rest]; exact h.of_eq
  | slot _ => exact h.of_eq
  | finalize => exact h.finalizePolygon
  | frame _ => exact h.finishFrame _
  | grid => exact h.buildGrid _ _
  | reset => exact BinInv.fullReset s

/-- Settles O56: every move keeps the bounds of the polygon buffer and of the tiles. -/
theorem stepKeepsBinInv : Obligations.StepKeepsBinInv := fun _ _ hs h =>
  kept_by_step (fun _ _ => BinInv.move) hs h

-- what no access makes a register hold (R33, R35, R47)

theorem RegisterInv.of_eq (h : RegisterInv s) (hs : ∀ i, 7 ≤ i → statusBit t i = statusBit s i)
    (hc : getReg t regIntClear = getReg s regIntClear)
    (hr : regBit t regCoreReset bitResetCore = regBit s regCoreReset bitResetCore) : RegisterInv t where
  statusReserved i hi := (hs i hi).trans (h.statusReserved i hi)
  intClear := hc.trans h.intClear
  resetBit := hr.trans h.resetBit

theorem RegisterInv.of_regs (h : RegisterInv s) (hc : t.cfg = s.cfg := by rfl) (hr : t.regs = s.regs := by rfl) :
    RegisterInv t :=
  h.of_eq (fun _ _ => statusBit_congr hr hc) (getReg_congr hr) (regBit_congr hr hc)

/-- The reserved bits are none of the FIFO's flags. -/
theorem not_mem_fifoFlags {i : Nat} (hi : 7 ≤ i) : i ∉ [bitFifoEmpty, bitFifoFull] := by
  simp only [List.mem_cons, List.not_mem_nil, or_false, bitFifoEmpty, bitFifoFull]
  omega

/-- Only REG.CORE.STATUS changes, and of it no reserved bit. -/
theorem RegisterInv.of_status (h : RegisterInv s) (hc : t.cfg = s.cfg)
    (hr : ∀ q, q ≠ regCoreStatus → getReg t q = getReg s q) (hs : ∀ i, 7 ≤ i → statusBit t i = statusBit s i) :
    RegisterInv t :=
  h.of_eq hs (hr _ (by decide)) (by rw [regBit, regBit, hc, hr _ (by decide)])

theorem RegisterInv.acceptPush (h : RegisterInv s) (c : CmdId) (d : Word) : RegisterInv (acceptPush c d s) :=
  h.of_status (congrArg State.cfg (acceptPush_rest c d s) :) (fun _ hq => getReg_acceptPush_of_ne hq c d)
    fun _ hi => (acceptPush_accepted c d s).status _ (not_mem_fifoFlags hi)

theorem RegisterInv.retireHead (h : RegisterInv s) : RegisterInv (retireHead s) :=
  h.of_status (congrArg State.cfg (retireHead_rest s) :) (fun _ hq => getReg_retireHead_of_ne hq)
    fun _ hi => statusBit_retireHead_of_not_mem (not_mem_fifoFlags hi)

theorem RegisterInv.setStatus (h : RegisterInv s) {i : Nat} (hi : i < 7) (x : Bool) : RegisterInv (setStatus i x s) :=
  h.of_status rfl (fun _ hq => getReg_setStatus_of_ne hq)
    fun j hj => by rw [statusBit_setStatus (by omega), if_neg (by omega)]

theorem RegisterInv.setReg (h : RegisterInv s) {r : RegName} {v : Word} (hr : Storable s.cfg r v) :
    RegisterInv (setReg r v s) where
  statusReserved i hi := (statusBit_setReg_of_ne hr.status).trans (h.statusReserved i hi)
  intClear := (getReg_setReg_of_ne hr.intClear).trans h.intClear
  resetBit := by
    by_cases e : r = regCoreReset
    · subst e; rw [regBit, getReg_setReg_self]; exact hr.reset rfl
    · exact (regBit_setReg_of_ne e).trans h.resetBit

theorem RegisterInv.clearBank (h : RegisterInv s) {b : BitVec 3} (hb : b ≠ bankCore) :
    RegisterInv (clearBank b s) where
  statusReserved i hi := (statusBit_clearBank hb).trans (h.statusReserved i hi)
  intClear := by rw [getReg_clearBank, h.intClear, ite_self]
  resetBit := by
    have kept : getReg (Machine.clearBank b s) regCoreReset = getReg s regCoreReset :=
      getReg_clearBank.trans (if_neg (Ne.symm hb))
    rw [regBit, kept]
    exact h.resetBit

/-- The registers that a full reset seeds (R56). -/
theorem RegisterInv.of_seedRegs (h : s.regs = seedRegs s.cfg) : RegisterInv s where
  statusReserved i hi := by
    rw [statusBit_of_seedRegs h]
    exact decide_eq_false (by unfold bitFifoEmpty; omega)
  intClear := getReg_of_seedRegs h
  resetBit := by
    have zero : getReg s regCoreReset = 0#32 := getReg_of_seedRegs h
    rw [regBit, zero, namedBit, bitOf, BitVec.getLsbD_zero]

theorem RegisterInv.move (hm : Move s t) (h : RegisterInv s) : RegisterInv t := by
  have hb : ∀ i ∈ workFlags, i < 7 := by decide
  cases hm with
  | quiet q => exact h.of_regs q.cfg q.regs
  | store hr => exact h.setReg hr
  | clear hb => exact h.clearBank hb
  | flag hi _ => exact h.setStatus (hb _ hi) _
  | arm => exact h.of_regs
  | disarm _ => exact h.of_regs
  | retile => exact h.of_regs
  | copy => exact h.of_regs
  | accept _ => exact h.acceptPush _ _
  | full _ => exact h.setStatus (by decide) _
  | retire _ => exact h.retireHead
  | slot _ => exact h.of_regs
  | finalize => rw [finalizePolygon_rest]; exact h.of_regs
  | frame _ => exact h.of_regs (by simp [finishFrame]) (by simp [finishFrame])
  | grid => exact h.of_regs
  | reset => exact .of_seedRegs rfl

/-- Settles O57: every move keeps what the reserved bits, REG.INT.CLEAR and REG.CORE.RESET hold. -/
theorem stepKeepsRegisterInv : Obligations.StepKeepsRegisterInv := fun _ _ hs h =>
  kept_by_step (fun _ _ => RegisterInv.move) hs h

-- vertex slots and polygons (R23, R27)

theorem VertexInv.of_eq (h : VertexInv s) (hc : t.cfg = s.cfg := by rfl) (hs : t.slots = s.slots := by rfl)
    (hp : t.polys = s.polys := by rfl) : VertexInv t where
  slots := by rw [hc, hs]; exact h.slots
  polys := by rw [hc, hp]; exact h.polys

/-- The reset value of a slot is in range, whatever the arithmetic. -/
theorem slotOk_zero (n : Numerics) : SlotOk n Slot.zero where
  w := rfl
  z := .inr ⟨rfl, rfl⟩
  x _ := le_rfl
  y _ := le_rfl
  color _ := by simp [Rgba.inUnit, Slot.zero]
  u _ := by simp [Slot.zero]
  v _ := by simp [Slot.zero]

theorem SlotsOk.iff_slotAt {n : Numerics} {vs : Slots} : SlotsOk n vs ↔ ∀ i, SlotOk n (slotAt vs i) := by
  constructor
  · intro h i
    fin_cases i
    · exact h.v0
    · exact h.v1
    · exact h.v2
  · exact fun h => ⟨h 0, h 1, h 2⟩

theorem VertexInv.updateOpenSlot (h : VertexInv s) {f : Slot → Slot}
    (hf : ∀ v, SlotOk s.cfg.numerics v → SlotOk s.cfg.numerics (f v)) : VertexInv (updateOpenSlot f s) where
  slots := by
    have slots := SlotsOk.iff_slotAt.1 h.slots
    refine SlotsOk.iff_slotAt.2 fun i => ?_
    rw [updateOpenSlot_slots, slotAt_putSlotAt]
    split_ifs
    · exact hf _ (slots s.vcount)
    · exact slots i
  polys := h.polys

theorem VertexInv.finalizePolygon (h : VertexInv s) : VertexInv (finalizePolygon s) := by
  rcases finalizePolygon_cases s with ⟨-, e⟩ | ⟨-, e⟩ <;> rw [e]
  · exact h.of_eq
  · refine ⟨h.slots, fun p hp => ?_⟩
    rcases List.mem_append.1 hp with hp | hp
    · exact h.polys p hp
    · rw [List.mem_singleton.1 hp]; exact h.slots

theorem VertexInv.fullReset (s : State) : VertexInv (fullReset s) where
  slots := ⟨slotOk_zero _, slotOk_zero _, slotOk_zero _⟩
  polys p hp := by cases hp

theorem VertexInv.move (hm : Move s t) (h : VertexInv s) : VertexInv t := by
  cases hm with
  | quiet q => exact h.of_eq q.cfg q.slots q.polys
  | store _ => exact h.of_eq
  | clear _ => exact h.of_eq
  | flag _ _ => exact h.of_eq
  | arm => exact h.of_eq
  | disarm _ => exact h.of_eq
  | retile => exact h.of_eq
  | copy => exact h.of_eq
  | accept _ => rw [acceptPush_rest]; exact h.of_eq
  | full _ => exact h.of_eq
  | retire _ => rw [retireHead_rest]; exact h.of_eq
  | slot hf => exact h.updateOpenSlot hf
  | finalize => exact h.finalizePolygon
  | frame _ => exact ⟨by simpa [finishFrame] using h.slots, fun p hp => by cases hp⟩
  | grid => exact h.of_eq
  | reset => exact VertexInv.fullReset s

/-- Settles O58: every move keeps the slots, and the polygons made of them, in their ranges. -/
theorem stepKeepsVertexInv : Obligations.StepKeepsVertexInv := fun _ _ hs h =>
  kept_by_step (fun _ _ => VertexInv.move) hs h

-- the drain gate and the timer (R53, R192, R316)

/-- The gate's invariant, flag by flag (R192). -/
theorem gateInv_iff : GateInv s ↔ ∀ i ∈ gateFlags, statusBit s i = true → s.timerArmed = true := by
  have closed : drainGateOpen s = false ↔ ∃ i ∈ gateFlags, statusBit s i = true := by
    simp only [drainGateOpen, gateFlags, Bool.and_eq_false_iff, Bool.not_eq_false', List.mem_cons, List.not_mem_nil,
      or_false, exists_eq_or_imp, exists_eq_left]
  rw [GateInv, closed]
  exact ⟨fun h i hi hb => h ⟨i, hi, hb⟩, fun h ⟨i, hi, hb⟩ => h i hi hb⟩

theorem GateInv.of_status (h : GateInv s) (hb : ∀ i ∈ gateFlags, statusBit t i = statusBit s i)
    (ha : t.timerArmed = s.timerArmed := by rfl) : GateInv t :=
  gateInv_iff.2 fun i hi e => by rw [hb i hi] at e; rw [ha]; exact gateInv_iff.1 h i hi e

theorem GateInv.of_regs (h : GateInv s) (hc : t.cfg = s.cfg := by rfl) (hr : t.regs = s.regs := by rfl)
    (ha : t.timerArmed = s.timerArmed := by rfl) : GateInv t := h.of_status (fun _ _ => statusBit_congr hr hc) ha

/-- A flag written leaves the gate as it was, opens it further, or closes it while the timer is armed. -/
theorem GateInv.setStatus (h : GateInv s) {i : Nat} {x : Bool} (hi : i < 32)
    (ha : x = true → i ∈ gateFlags → s.timerArmed = true) : GateInv (setStatus i x s) :=
  gateInv_iff.2 fun j hj e => by
    rw [statusBit_setStatus hi] at e
    split_ifs at e with hij
    · exact ha e (hij ▸ hj)
    · show s.timerArmed = true
      exact gateInv_iff.1 h j hj e

theorem gateFlags_not_fifo : ∀ i ∈ gateFlags, i ∉ [bitFifoEmpty, bitFifoFull] := by decide

theorem GateInv.acceptPush (h : GateInv s) (c : CmdId) (d : Word) : GateInv (acceptPush c d s) :=
  h.of_status (fun i hi => (acceptPush_accepted c d s).status i (gateFlags_not_fifo i hi))
    (congrArg State.timerArmed (acceptPush_rest c d s) :)

theorem GateInv.retireHead (h : GateInv s) : GateInv (retireHead s) :=
  h.of_status (fun i hi => statusBit_retireHead_of_not_mem (gateFlags_not_fifo i hi))
    (congrArg State.timerArmed (retireHead_rest s) :)

theorem GateInv.of_open (h : drainGateOpen s = true) : GateInv s :=
  fun e => absurd (e.symm.trans h) (by decide)

theorem GateInv.move (hm : Move s t) (h : GateInv s) : GateInv t := by
  have hb : ∀ i ∈ workFlags, i < 32 := by decide
  cases hm with
  | quiet q => exact h.of_regs q.cfg q.regs q.timerArmed
  | store hr => exact h.of_status fun _ _ => statusBit_setReg_of_ne hr.status
  | clear hb => exact h.of_status fun _ _ => statusBit_clearBank hb
  | flag hi ha => exact h.setStatus (hb _ hi) ha
  | arm => exact fun _ => rfl
  | disarm hg => exact .of_open hg
  | retile => exact h.of_regs
  | copy => exact h.of_regs
  | accept _ => exact h.acceptPush _ _
  | full _ => exact h.setStatus (by decide) fun _ hi => absurd hi (by decide)
  | retire _ => exact h.retireHead
  | slot _ => exact h.of_regs
  | finalize => rw [finalizePolygon_rest]; exact h.of_regs
  | frame _ => exact h.of_regs (by simp [finishFrame]) (by simp [finishFrame]) (by simp [finishFrame])
  | grid => exact h.of_regs
  | reset => exact .of_open (drainGateOpen_of_seedRegs rfl)

/-- Settles O59: every move that closes the gate finds the timer armed, and none disarms it while the gate is
closed. -/
theorem stepKeepsGateInv : Obligations.StepKeepsGateInv := fun _ _ hs h =>
  kept_by_step (fun _ _ => GateInv.move) hs h

-- right after reset (R56)

theorem fullReset_regs (s : State) : (fullReset s).regs = seedRegs s.cfg := rfl

theorem reset_regs : State.reset.regs = seedRegs State.reset.cfg := by simp only [State.reset]

theorem storeInv_reset : StoreInv State.reset where
  regs := by rw [reset_regs]; exact (seedRegs_wf _).1
  regKeys := by rw [reset_regs]; exact (seedRegs_wf _).2
  hostMem := reset_memories_wf.1
  vram := reset_memories_wf.2
  zbuf := cellsWf_nil
  zfresh := fun _ e => ⟨rfl, by cases e; exact Nat.zero_lt_one⟩

theorem fifoInv_reset : FifoInv State.reset :=
  (FifoInv.fullReset (s := State.reset) (by decide) List.length_replicate).of_regs rfl rfl
    (reset_regs.trans (fullReset_regs _).symm)

/-- Settles O60: the reset state is what a full reset leaves, apart from the count of ZBUF's allocations. -/
theorem resetMeetsInvariants : Obligations.ResetMeetsInvariants :=
  ⟨storeInv_reset, fifoInv_reset, (BinInv.fullReset State.reset).of_eq, .of_seedRegs reset_regs,
    (VertexInv.fullReset State.reset).of_eq, .of_open (drainGateOpen_of_seedRegs reset_regs)⟩

end Sys2Proof.Machine
end

section
/-! SUPPORT. Which instruction a register access runs, and the words of the encodings' tables. -/

namespace Sys2Proof.Machine

/-- An address that selects no register is never moved (R101, R131, R132). -/
theorem homeAddr_of_no_register (p : Params) {a : RegAddr} (h : a.extractLsb' 0 2 ≠ 0#2 ∨ a.getLsbD 15 = true) :
    homeAddr p a = a := by
  refine if_neg fun ⟨h0, h1⟩ => ?_
  rcases h with h | h
  · exact h h0
  · rw [h1] at h; cases h

/-- Settles O5: the event at the head of the inbox is admitted, and an access runs what it decodes to. -/
theorem stepRunsDecodedAccess : Obligations.StepRunsDecodedAccess := by
  intro s a v rest hc
  refine ⟨fun h => ?_, fun h => ?_, fun hb ho => homeAddr_default hb ho a, homeAddr_of_no_register s.cfg⟩
  · rw [step_of_inbox h, hostStep, if_pos (by simp [admitted, hc])]; rfl
  · rw [step_of_inbox h, hostStep, if_pos (by simp [admitted, hc])]; rfl

/-- Settles O4: the decoder is run on each of the words. -/
theorem wordsDecode : Obligations.WordsDecode := by
  unfold Obligations.WordsDecode
  decide

end Sys2Proof.Machine
end

section
/-! SUPPORT. The encoder undoes the decoder, and the places of banks, registers and bits under a well-formed
binding. -/

namespace Sys2Proof.Machine

-- command words: a payload is put together again from the fields that the decoder cuts it into (R102, R107 to R109)

theorem cmdWord_fields (w : BitVec 40) : cmdWord (cmdWordId w) (cmdWordData w) = w :=
  (BitVec.extractLsb'_append_extractLsb'_eq_extractLsb' rfl).trans BitVec.extractLsb'_eq_self

theorem vertexPayload_fields (d : Word) :
    vertexPayload (d.extractLsb' 22 10) (d.extractLsb' 12 10) (d.extractLsb' 0 12) = d := by
  unfold vertexPayload
  rw [BitVec.extractLsb'_append_extractLsb'_eq_extractLsb' (show 22 = 12 + 10 from rfl),
    BitVec.extractLsb'_append_extractLsb'_eq_extractLsb' (show 12 = 0 + 12 from rfl)]
  exact BitVec.extractLsb'_eq_self

theorem texPayload_fields (d : Word) : texPayload (d.extractLsb' 24 8) (d.extractLsb' 0 24) = d :=
  (BitVec.extractLsb'_append_extractLsb'_eq_extractLsb' rfl).trans BitVec.extractLsb'_eq_self

theorem uvPayload_fields {d : Word} (h : d.extractLsb' 24 8 = texSubUv) :
    uvPayload (d.extractLsb' 12 12) (d.extractLsb' 0 12) = d := by
  unfold uvPayload
  rw [← h, BitVec.extractLsb'_append_extractLsb'_eq_extractLsb' (show 24 = 12 + 12 from rfl),
    BitVec.extractLsb'_append_extractLsb'_eq_extractLsb' (show 12 = 0 + 12 from rfl)]
  exact BitVec.extractLsb'_eq_self

theorem colorPayload_fields (d : Word) : colorPayload (d.extractLsb' 24 8) (d.extractLsb' 16 8)
    (d.extractLsb' 8 8) (d.extractLsb' 0 8) = d := by
  unfold colorPayload
  rw [BitVec.extractLsb'_append_extractLsb'_eq_extractLsb' (show 24 = 16 + 8 from rfl),
    BitVec.extractLsb'_append_extractLsb'_eq_extractLsb' (show 16 = 8 + 8 from rfl),
    BitVec.extractLsb'_append_extractLsb'_eq_extractLsb' (show 8 = 0 + 8 from rfl)]
  exact BitVec.extractLsb'_eq_self

theorem encode_decodeTexture (d : Word) : encode (decodeTexture d) = .cmd (cmdWord cmdIdTexture d) := by
  simp only [decodeTexture]
  split_ifs with haddr huv hformat
  · rw [encode, ← haddr, texPayload_fields]
  · rw [encode, uvPayload_fields huv]
  · rw [encode, ← hformat, texPayload_fields]
  · rw [encode, texPayload_fields]

theorem encode_decodeCmd (c : CmdId) (d : Word) : encode (decodeCmd c d) = .cmd (cmdWord c d) := by
  unfold decodeCmd
  split_ifs with hvertex htexture hcolor hrender
  · rw [encode, vertexPayload_fields, hvertex]
  · rw [encode_decodeTexture, htexture]
  · rw [encode, colorPayload_fields, hcolor]
  · rw [encode, hrender]
  · rw [encode]

-- register accesses (R100, R101, R104, R105)

/-- An address that selects a register is that register's but for the ignored bits 19:16 (R71). -/
theorem addr_addrReg {a : RegAddr} (h0 : addrAlign a = 0#2) (h1 : addrBankHigh a = false) :
    (addrReg a).addr = a &&& 0x0FFFF#20 := by
  have low : ∀ i < 2, a.getLsbD i = false := fun i hi => by
    simpa [addrAlign, hi] using congrArg (BitVec.getLsbD · i) h0
  have mask : ∀ i < 20, (0x0FFFF#20).getLsbD i = decide (i < 16) := by decide
  apply BitVec.eq_of_getLsbD_eq
  intro i hi
  rw [addrReg, Laws.TableRow.getLsbD_addr, BitVec.getLsbD_and, mask i hi]
  simp only [addrBank, addrWord, BitVec.getLsbD_extractLsb']
  split_ifs with c1 c2 c3
  · rw [low i c1, Bool.false_and]
  · simp [show i - 2 < 10 by omega, show 2 + (i - 2) = i by omega, show i < 16 by omega]
  · simp [show i - 12 < 3 by omega, show 12 + (i - 12) = i by omega, show i < 16 by omega]
  · rcases (show i = 15 ∨ 16 ≤ i by omega) with rfl | c4
    · rw [show a.getLsbD 15 = false from h1, Bool.false_and]
    · rw [decide_eq_false (by omega), Bool.and_false]

/-- The map of R104 loses neither the register nor the value written. -/
theorem encode_selectWrite (r : RegName) (v : Word) : encode (selectWrite r v) = .regw r.addr v := by
  by_cases h : r ∈ namedWrites
  · simp only [namedWrites, List.mem_cons, List.not_mem_nil, or_false] at h
    rcases h with rfl | rfl | rfl | rfl | rfl | rfl | rfl | rfl | rfl | rfl | rfl | rfl | rfl | rfl | rfl | rfl |
      rfl | rfl | rfl | rfl | rfl | rfl | rfl | rfl <;> rfl
  · rw [selectWrite_of_not_named v h]
    split_ifs with hpci hint
    · rw [encode, ← hpci]
    · rw [encode, ← hint]
    · rw [encode]

/-- A write that selects no register keeps its whole address, any other loses bits 19:16. -/
theorem encode_decodeWrite (a : RegAddr) (v : Word) : encode (decodeWrite a v) =
    .regw (if addrAlign a ≠ 0#2 ∨ addrBankHigh a = true then a else a &&& 0x0FFFF#20) v := by
  unfold decodeWrite
  by_cases h0 : addrAlign a ≠ 0#2
  · rw [if_pos h0, if_pos (.inl h0), encode]
  by_cases h1 : addrBankHigh a = true
  · rw [if_neg h0, if_pos h1, if_pos (.inr h1), encode]
  · rw [if_neg h0, if_neg h1, if_neg (not_or.2 ⟨h0, h1⟩), encode_selectWrite,
      addr_addrReg (not_not.1 h0) (Bool.eq_false_of_not_eq_true h1)]

/-- The map of R105 loses no register. -/
theorem encode_selectRead (r : RegName) :
    encode (if r = regCoreStatus then .coreStatusRd else .regLoad r.bank r.word) = .regr r.addr := by
  split_ifs with h
  · rw [encode, h]
  · rw [encode]

/-- A read that selects no register keeps its whole address, any other loses bits 19:16. -/
theorem encode_decodeRead (a : RegAddr) : encode (decodeRead a) =
    .regr (if addrAlign a ≠ 0#2 ∨ addrBankHigh a = true then a else a &&& 0x0FFFF#20) := by
  unfold decodeRead
  by_cases h0 : addrAlign a ≠ 0#2
  · rw [if_pos h0, if_pos (.inl h0), encode]
  by_cases h1 : addrBankHigh a = true
  · rw [if_neg h0, if_pos h1, if_pos (.inr h1), encode]
  · rw [if_neg h0, if_neg h1, if_neg (not_or.2 ⟨h0, h1⟩),
      ← addr_addrReg (not_not.1 h0) (Bool.eq_false_of_not_eq_true h1)]
    exact encode_selectRead (addrReg a)

-- bindings (R7, R31)

/-- Moving the address of a register gives the address of the register it is moved to. -/
theorem moveAddr_addr (f : RegName → RegName) (r : RegName) : moveAddr f r.addr = (f r).addr := by
  have fields : RegName.mk (r.addr.extractLsb' 12 3) (r.addr.extractLsb' 2 10) = r := addrReg_addr r
  have ignored : r.addr.extractLsb' 16 4 = 0#4 := by
    apply BitVec.eq_of_getLsbD_eq
    intro i hi
    rw [BitVec.getLsbD_extractLsb', Laws.TableRow.getLsbD_addr, if_neg (by omega), if_neg (by omega),
      if_neg (by omega), Bool.and_false, BitVec.getLsbD_zero]
  unfold moveAddr
  rw [if_pos ⟨addrAlign_addr r, addrBankHigh_addr r⟩, fields, ignored]
  rfl

variable {p : Params}

/-- The three clauses of a well-formed binding (R7), of banks, of offsets and of bit positions. -/
theorem wf_places_nodup (h : p.wf = true) : p.bankId.list.Nodup ∧ (∀ l ∈ p.offset.lists, l.Nodup) ∧
    ∀ l ∈ p.bits.lists, l.Nodup := by
  simp only [Params.wf, Bool.and_eq_true, List.all_eq_true, decide_eq_true_eq] at h
  obtain ⟨⟨⟨-, banks⟩, offsets⟩, bits⟩ := h
  exact ⟨banks, offsets, bits⟩

-- the homes of each table are distinct whatever the binding, its places where the binding is well-formed

theorem bankTable_homes_nodup (p : Params) : ((bankTable p).map Prod.fst).Nodup := by
  simp only [bankTable, List.map_cons, List.map_nil]
  decide

theorem offsetTable_homes_nodup (p : Params) (b : BitVec 3) : ((offsetTable p b).map Prod.fst).Nodup := by
  unfold offsetTable
  split_ifs <;> simp only [List.map_cons, List.map_nil] <;> decide

theorem bitTable_homes_nodup (p : Params) (r : RegName) : ((bitTable p r).map Prod.fst).Nodup := by
  unfold bitTable
  split_ifs <;> simp only [List.map_cons, List.map_nil] <;> decide

theorem offsetTable_places_nodup (h : p.wf = true) (b : BitVec 3) : ((offsetTable p b).map Prod.snd).Nodup := by
  obtain ⟨-, offsets, -⟩ := wf_places_nodup h
  have listed : (offsetTable p b).map Prod.snd ∈ p.offset.lists ∨ offsetTable p b = [] := by
    unfold offsetTable
    split_ifs <;> simp [Offsets.lists]
  rcases listed with hl | hl
  · exact offsets _ hl
  · rw [hl]; exact List.nodup_nil

theorem bitTable_places_nodup (h : p.wf = true) (r : RegName) : ((bitTable p r).map Prod.snd).Nodup := by
  obtain ⟨-, -, bits⟩ := wf_places_nodup h
  have listed : (∃ l ∈ p.bits.lists, (bitTable p r).map Prod.snd = l.map BitVec.toNat) ∨
      (bitTable p r).length ≤ 1 := by
    unfold bitTable
    split_ifs <;> simp [BitPositions.lists]
  rcases listed with ⟨l, hl, he⟩ | hl
  · rw [he]; exact (bits l hl).map fun _ _ => BitVec.eq_of_toNat_eq
  · match bitTable p r, hl with
    | [], _ => exact List.nodup_nil
    | [e], _ => exact List.nodup_singleton e.2

/-- Settles O2: the accesses by format, the binding by the rows of its three tables. -/
theorem encodeDecode : Obligations.EncodeDecode := by
  refine ⟨encode_decodeWrite, encode_decodeRead, fun w => ?_,
    fun p a => ⟨homeAddr_placeAddr p a, placeAddr_homeAddr p a⟩, fun p => moveAddr_addr (placeReg p), fun p hp => ?_⟩
  · rw [decode, encode_decodeCmd, cmdWord_fields]
  · obtain ⟨banks, -, -⟩ := wf_places_nodup hp
    refine ⟨fun e he w => ?_, fun b e he => ?_, fun r e he => ?_⟩
    · rw [placeReg_bank]
      exact placeOf_of_mem (bankTable_homes_nodup p) banks he
    · rw [placeReg_word]
      exact placeOf_of_mem (offsetTable_homes_nodup p b) (offsetTable_places_nodup hp b) he
    · exact placeOf_of_mem (bitTable_homes_nodup p r) (bitTable_places_nodup hp r) he

end Sys2Proof.Machine
end

section
/-! SUPPORT. The decoder undoes the encoder; the order in which it decodes a register access; the instruction a
command id and payload stand for. -/

namespace Sys2Proof.Machine

-- the fields of an assembled payload (R107 to R109)

section
variable (x y : BitVec 10) (z : BitVec 12)

theorem vertexPayload_xraw : (vertexPayload x y z).extractLsb' 22 10 = x :=
  (BitVec.extractLsb'_append_eq_of_le (xhi := (x ++ y : BitVec (10 + 10))) (xlo := z) (by decide)).trans
    BitVec.extractLsb'_append_eq_left

theorem vertexPayload_yraw : (vertexPayload x y z).extractLsb' 12 10 = y :=
  (BitVec.extractLsb'_append_eq_of_le (xhi := (x ++ y : BitVec (10 + 10))) (xlo := z) (by decide)).trans
    BitVec.extractLsb'_append_eq_right

theorem vertexPayload_zraw : (vertexPayload x y z).extractLsb' 0 12 = z :=
  BitVec.extractLsb'_append_eq_right (a := (x ++ y : BitVec (10 + 10)))

end

theorem texPayload_subtype (sub : BitVec 8) (arg : BitVec 24) : (texPayload sub arg).extractLsb' 24 8 = sub :=
  BitVec.extractLsb'_append_eq_left (a := sub) (b := arg)

theorem texPayload_arg (sub : BitVec 8) (arg : BitVec 24) : (texPayload sub arg).extractLsb' 0 24 = arg :=
  BitVec.extractLsb'_append_eq_right (a := sub) (b := arg)

section
variable (u v : BitVec 12)

theorem uvPayload_subtype : (uvPayload u v).extractLsb' 24 8 = texSubUv :=
  (BitVec.extractLsb'_append_eq_of_le (xhi := (texSubUv ++ u : BitVec (8 + 12))) (xlo := v) (by decide)).trans
    BitVec.extractLsb'_append_eq_left

theorem uvPayload_uraw : (uvPayload u v).extractLsb' 12 12 = u :=
  (BitVec.extractLsb'_append_eq_of_le (xhi := (texSubUv ++ u : BitVec (8 + 12))) (xlo := v) (by decide)).trans
    BitVec.extractLsb'_append_eq_right

theorem uvPayload_vraw : (uvPayload u v).extractLsb' 0 12 = v :=
  BitVec.extractLsb'_append_eq_right (a := (texSubUv ++ u : BitVec (8 + 12)))

end

section
variable (r g b a : BitVec 8)

/-- Above its lowest byte, the payload of CMD.COLOR is R8, G8 and B8 side by side. -/
theorem colorPayload_above_a8 {start : Nat} (h : 8 ≤ start) : (colorPayload r g b a).extractLsb' start 8 =
    (r ++ g ++ b : BitVec (8 + 8 + 8)).extractLsb' (start - 8) 8 :=
  BitVec.extractLsb'_append_eq_of_le h

theorem colorPayload_r8 : (colorPayload r g b a).extractLsb' 24 8 = r :=
  calc (colorPayload r g b a).extractLsb' 24 8
      = (r ++ g ++ b : BitVec (8 + 8 + 8)).extractLsb' 16 8 := colorPayload_above_a8 r g b a (by decide)
    _ = (r ++ g : BitVec (8 + 8)).extractLsb' 8 8 := BitVec.extractLsb'_append_eq_of_le (by decide)
    _ = r := BitVec.extractLsb'_append_eq_left

theorem colorPayload_g8 : (colorPayload r g b a).extractLsb' 16 8 = g :=
  calc (colorPayload r g b a).extractLsb' 16 8
      = (r ++ g ++ b : BitVec (8 + 8 + 8)).extractLsb' 8 8 := colorPayload_above_a8 r g b a (by decide)
    _ = (r ++ g : BitVec (8 + 8)).extractLsb' 0 8 := BitVec.extractLsb'_append_eq_of_le (by decide)
    _ = g := BitVec.extractLsb'_append_eq_right

theorem colorPayload_b8 : (colorPayload r g b a).extractLsb' 8 8 = b :=
  (colorPayload_above_a8 r g b a (by decide)).trans BitVec.extractLsb'_append_eq_right

theorem colorPayload_a8 : (colorPayload r g b a).extractLsb' 0 8 = a :=
  BitVec.extractLsb'_append_eq_right (a := (r ++ g ++ b : BitVec (8 + 8 + 8)))

end

-- the three branches of the decoder of register accesses (R101)

section
variable {a : RegAddr}

theorem decode_of_unaligned (halign : addrAlign a ≠ 0#2) :
    (∀ v, decode (.regw a v) = .regUnalignedWr a v) ∧ decode (.regr a) = .regUnalignedRd a :=
  ⟨fun _ => if_pos halign, if_pos halign⟩

theorem decode_of_bankHigh (halign : addrAlign a = 0#2) (hbank : addrBankHigh a = true) :
    (∀ v, decode (.regw a v) = .regUnknownWr a v) ∧ decode (.regr a) = .regUnknownRd a :=
  ⟨fun _ => (if_neg (not_not.2 halign)).trans (if_pos hbank), (if_neg (not_not.2 halign)).trans (if_pos hbank)⟩

/-- An access to a register runs what R104 and R105 map the register to. -/
theorem decode_of_register (halign : addrAlign a = 0#2) (hbank : addrBankHigh a = false) :
    (∀ v, decode (.regw a v) = selectWrite (addrReg a) v) ∧ decode (.regr a) =
      if addrReg a = regCoreStatus then .coreStatusRd else .regLoad (addrReg a).bank (addrReg a).word :=
  have low : ¬ addrBankHigh a = true := Bool.eq_false_iff.1 hbank
  ⟨fun _ => (if_neg (not_not.2 halign)).trans (if_neg low), (if_neg (not_not.2 halign)).trans (if_neg low)⟩

end

-- what an assembled access decodes to

theorem decode_regw_addr (r : RegName) (v : Word) : decode (.regw r.addr v) = selectWrite r v := by
  rw [(decode_of_register (addrAlign_addr r) (addrBankHigh_addr r)).1, addrReg_addr]

theorem decode_regr_addr (r : RegName) : decode (.regr r.addr) =
    if r = regCoreStatus then .coreStatusRd else .regLoad r.bank r.word := by
  rw [(decode_of_register (addrAlign_addr r) (addrBankHigh_addr r)).2, addrReg_addr]

theorem decode_cmdWord (c : CmdId) (d : Word) : decode (.cmd (cmdWord c d)) = decodeCmd c d := by
  rw [decode, cmdWordId_cmdWord, cmdWordData_cmdWord]

theorem decode_textureWord (d : Word) : decode (.cmd (cmdWord cmdIdTexture d)) = decodeTexture d := by
  rw [decode_cmdWord]; rfl

-- the fallback rows of R103 and R104

/-- No word of bank pci has a row of its own. -/
theorem not_named_of_pci (w : BitVec 10) : RegName.mk bankPci w ∉ namedWrites := fun h =>
  (by decide : ∀ r ∈ namedWrites, r.bank ≠ bankPci) _ h rfl

theorem decodeTexture_of_unknown {sub : BitVec 8} (arg : BitVec 24)
    (h : sub ∉ [texSubAddr, texSubUv, texSubFormat]) :
    decodeTexture (texPayload sub arg) = .cmdTexUnknown sub arg := by
  simp only [List.mem_cons, List.not_mem_nil, or_false, not_or] at h
  obtain ⟨haddr, huv, hformat⟩ := h
  simp only [decodeTexture, texPayload_subtype, texPayload_arg, haddr, huv, hformat, if_false]

theorem decodeCmd_of_unknown {c : CmdId} (d : Word)
    (h : c ∉ [cmdIdVertex, cmdIdTexture, cmdIdColor, cmdIdRenderStart]) : decodeCmd c d = .cmdUnknown c d := by
  simp only [List.mem_cons, List.not_mem_nil, or_false, not_or] at h
  obtain ⟨hvertex, htexture, hcolor, hrender⟩ := h
  simp only [decodeCmd, hvertex, htexture, hcolor, hrender, if_false]

/-- Settles O1: a named register and a command id are found by evaluating the maps, a fallback row because no
specific row claims its fields. -/
theorem decodeEncode : Obligations.DecodeEncode := by
  intro i h
  cases i with
  | coreReset v | coreConfig v | coreStatus v | polyControl v | polyVertex v | polyNormal v | polyColor v
  | polyTexcoord v | texControl v | texAddr v | texFormat v | texFilter v | renderControl v | renderZbuffer v
  | renderBlend v | videoFbaddr v | videoStride v | dmaControl v | dmaSrc v | dmaDest v | dmaCount v | intClear v
  | intStatus v | intMask v =>
    rw [encode, decode_regw_addr]; rfl
  | pciStore w v =>
    rw [encode, decode_regw_addr, selectWrite_of_not_named v (not_named_of_pci w), if_pos rfl]
  | intStore w v =>
    rw [encode, decode_regw_addr, selectWrite_of_not_named v (of_decide_eq_true h),
      if_neg (show bankInt ≠ bankPci by decide), if_pos rfl]
  | regStore b w v =>
    simp only [Instr.wf, Bool.and_eq_true, decide_eq_true_eq] at h
    obtain ⟨⟨hnamed, hpci⟩, hint⟩ := h
    rw [encode, decode_regw_addr, selectWrite_of_not_named v hnamed, if_neg hpci, if_neg hint]
  | regUnalignedWr a v => exact (decode_of_unaligned (of_decide_eq_true h)).1 v
  | regUnalignedRd a => exact (decode_of_unaligned (of_decide_eq_true h)).2
  | regUnknownWr a v =>
    simp only [Instr.wf, Bool.and_eq_true, decide_eq_true_eq] at h
    exact (decode_of_bankHigh h.1 h.2).1 v
  | regUnknownRd a =>
    simp only [Instr.wf, Bool.and_eq_true, decide_eq_true_eq] at h
    exact (decode_of_bankHigh h.1 h.2).2
  | coreStatusRd => rw [encode, decode_regr_addr, if_pos rfl]
  | regLoad b w => rw [encode, decode_regr_addr, if_neg (of_decide_eq_true h)]
  | cmdVertex x y z =>
    rw [encode, decode_cmdWord, decodeCmd, if_pos rfl, vertexPayload_xraw, vertexPayload_yraw, vertexPayload_zraw]
  | cmdTexAddr arg | cmdTexFormat arg =>
    simp only [encode, decode_textureWord, decodeTexture, texPayload_subtype, texPayload_arg]
    rfl
  | cmdTexUv u v =>
    simp only [encode, decode_textureWord, decodeTexture, uvPayload_subtype, uvPayload_uraw, uvPayload_vraw]
    rfl
  | cmdTexUnknown sub arg =>
    rw [encode, decode_textureWord, decodeTexture_of_unknown arg (of_decide_eq_true h)]
  | cmdColor r g b a =>
    simp only [encode, decode_cmdWord, decodeCmd, colorPayload_r8, colorPayload_g8, colorPayload_b8, colorPayload_a8]
    rfl
  | cmdRenderStart d => rw [encode, decode_cmdWord]; rfl
  | cmdUnknown c d => rw [encode, decode_cmdWord, decodeCmd_of_unknown d (of_decide_eq_true h)]

-- register accesses: alignment, bank, then the maps (R101, R104, R105)

/-- The four bits of `BANK` are the three of a bank 0 to 7 under the bit that marks a bank above 7 (R132). -/
theorem bankField_toNat (a : RegAddr) :
    (a.extractLsb' 12 4).toNat = (addrBank a).toNat + 8 * (addrBankHigh a).toNat := by
  simp only [addrBank, addrBankHigh, BitVec.getLsbD, Nat.toNat_testBit, BitVec.extractLsb'_toNat,
    Nat.shiftRight_eq_div_pow]
  omega

theorem addrBankHigh_iff_bankField (a : RegAddr) : addrBankHigh a = true ↔ 7 < (a.extractLsb' 12 4).toNat := by
  have := (addrBank a).isLt
  rw [bankField_toNat a]
  cases addrBankHigh a
  · simp only [Bool.false_eq_true, Bool.toNat_false, false_iff]; omega
  · simp only [Bool.toNat_true, true_iff]; omega

/-- The register at a bank and byte offset is the one whose bank and word have these numbers (R30, R100). -/
theorem eq_regAt {r : RegName} {b o : Nat} (hb : r.bank.toNat = b) (ho : 4 * r.word.toNat = o) :
    r = regAt (BitVec.ofNat 3 b) o := by
  subst hb ho
  simp [regAt]

/-- Off the registers that R104 lists, its table comes down to the rows of bank pci, of bank interrupt and of
the rest. -/
theorem writeMap_of_not_named {r : RegName} (v : Word) (h : r ∉ namedWrites) :
    Sys2Proof.Spec.writeMap r.bank.toNat (4 * r.word.toNat) v = if r.bank = bankPci then .pciStore r.word v
      else if r.bank = bankInt then .intStore r.word v else .regStore r.bank r.word v := by
  have unlisted {b o : Nat} (hb : r.bank.toNat = b) (ho : 4 * r.word.toNat = o) :
      regAt (BitVec.ofNat 3 b) o ∉ namedWrites := eq_regAt hb ho ▸ h
  have word : BitVec.ofNat 10 (4 * r.word.toNat / 4) = r.word := by simp
  have bank {b : BitVec 3} (hb : r.bank.toNat = b.toNat) : r.bank = b := BitVec.eq_of_toNat_eq hb
  unfold Sys2Proof.Spec.writeMap
  split
  -- the rows of banks pci and interrupt, then the last row; every other row is that of a listed register
  case h_16 hpci => rw [word, if_pos (bank (b := bankPci) hpci)]
  case h_26 hint _ _ _ => rw [word, bank (b := bankInt) hint, if_neg (by decide), if_pos rfl]
  case h_27 =>
    have hpci : r.bank ≠ bankPci := fun e => ‹r.bank.toNat = 4 → False› (congrArg BitVec.toNat e)
    have hint : r.bank ≠ bankInt := fun e => ‹r.bank.toNat = 7 → False› (congrArg BitVec.toNat e)
    rw [word, BitVec.ofNat_toNat, BitVec.setWidth_eq, if_neg hpci, if_neg hint]
  all_goals exact (unlisted ‹r.bank.toNat = _› ‹4 * r.word.toNat = _› (by decide)).elim

/-- The map of R104 is its table, row by row. -/
theorem selectWrite_eq_writeMap (r : RegName) (v : Word) :
    selectWrite r v = Sys2Proof.Spec.writeMap r.bank.toNat (4 * r.word.toNat) v := by
  by_cases h : r ∈ namedWrites
  · simp only [namedWrites, List.mem_cons, List.not_mem_nil, or_false] at h
    rcases h with rfl | rfl | rfl | rfl | rfl | rfl | rfl | rfl | rfl | rfl | rfl | rfl | rfl | rfl | rfl | rfl |
      rfl | rfl | rfl | rfl | rfl | rfl | rfl | rfl <;> rfl
  · rw [selectWrite_of_not_named v h, writeMap_of_not_named v h]

/-- The register REG.CORE.STATUS by its bank and byte offset (R31). -/
theorem eq_regCoreStatus_iff (r : RegName) : r = regCoreStatus ↔ r.bank.toNat = 0 ∧ 4 * r.word.toNat = 0x008 :=
  ⟨fun h => h ▸ ⟨rfl, rfl⟩, fun ⟨hb, ho⟩ => eq_regAt hb ho⟩

/-- Settles O3: the three cases are the branches of the decoder, in its order. -/
theorem accessDecodeOrder : Obligations.AccessDecodeOrder := by
  intro a v
  refine ⟨fun halign => ?_, fun halign hbank => ?_, fun halign hbank => ?_⟩
  · exact (decode_of_unaligned halign).imp (· v) id
  · exact (decode_of_bankHigh halign ((addrBankHigh_iff_bankField a).2 hbank)).imp (· v) id
  · have low : addrBankHigh a = false :=
      Bool.eq_false_iff.2 fun high => absurd ((addrBankHigh_iff_bankField a).1 high) (not_lt.2 hbank)
    have bank : (a.extractLsb' 12 4).toNat = (addrReg a).bank.toNat := by rw [bankField_toNat, low]; rfl
    obtain ⟨write, read⟩ := decode_of_register halign low
    rw [bank, write, read]
    exact ⟨selectWrite_eq_writeMap (addrReg a) v, if_congr (eq_regCoreStatus_iff (addrReg a)) rfl rfl⟩

-- commands (R102, R103, R210)

/-- The dispatcher and the decoder branch on the same id and, for a texture command, on the same sub-type; on
each branch the dispatcher runs the arm of `exec` for the instruction decoded. -/
theorem dispatch_eq_exec (c : CmdId) (d : Word) (s : State) : dispatch c d s = exec (decodeCmd c d) s := by
  simp only [dispatch, decodeCmd, decodeTexture]
  split_ifs <;> rfl

/-- Settles O6: the two maps agree on every id, and no command touches the FIFO (`dispatch_keeps`). -/
theorem dispatchRunsDecodedCommand : Obligations.DispatchRunsDecodedCommand := by
  intro c d s
  refine ⟨by rw [decode_cmdWord, dispatch_eq_exec], fun t h => ?_⟩
  exact (congrArg State.fifo (dispatch_keeps h).rest :)

end Sys2Proof.Machine
end

section
/-! SUPPORT. Host reads, rejected writes, and the stores: each is one event on a port, or one register word with
the mirror that the rules name. -/

namespace Sys2Proof.Machine

variable {s t u : State} {r : RegName} {v : Word} {i : Nat}

-- frames

/-- Changes to registers alone, one after another. -/
theorem regsOnly_trans (hst : t = { s with regs := t.regs }) (htu : u = { t with regs := u.regs }) :
    u = { s with regs := u.regs } := by
  rw [htu, hst]

/-- A bit of a register depends on its word and on the bit positions. -/
theorem regBit_of_getReg (hr : getReg t r = getReg s r) (hc : t.cfg = s.cfg := by rfl) :
    regBit t r i = regBit s r i := by
  rw [regBit, regBit, hr, hc]

/-- A register write that is seen to update mirrors and ports only, besides its word. -/
theorem storesWith_of_exec {upd : State → State} {o : Result} (hr : r ≠ regCoreStatus := by decide)
    (ho : o = .next (upd (setReg r v s)) := by rfl)
    (hregs : (upd (setReg r v s)).regs = (setReg r v s).regs := by rfl)
    (hcfg : (upd (setReg r v s)).cfg = s.cfg := by rfl) (hvram : (upd (setReg r v s)).vram = s.vram := by rfl)
    (hhost : (upd (setReg r v s)).hostMem = s.hostMem := by rfl)
    (hz : zSample (upd (setReg r v s)) = zSample s := by rfl) : StoresWith r v upd s o :=
  storesWith_of_setReg hr ho hregs hcfg
    ⟨fun _ => by rw [vramByte, hvram, vramByte], fun _ => by rw [hostByte, hhost, hostByte], congrFun hz⟩

/-- What a write at the address of a register of R104 decodes to. -/
theorem decode_regw_of_addr {a : RegAddr} (r : RegName) (h : r.addr = a := by decide) :
    decode (.regw a v) = selectWrite r v := by
  rw [← h, decode_regw_addr]

-- rejected accesses and reads (R131, R132, R139, R156, R157)

/-- Settles O7: the decoder's first two branches and the row of REG.CORE.STATUS; each of the three is one
diagnostic. -/
theorem rejectedWritesOnlyLog : Obligations.RejectedWritesOnlyLog := by
  intro a v s
  refine ⟨fun h => (decode_of_unaligned h).1 v, fun h hbank => (decode_of_bankHigh h hbank).1 v,
    decode_regw_of_addr regCoreStatus, ?_, ?_, ?_⟩ <;>
    exact ⟨_, rfl, rfl, .refl s⟩

/-- Settles O28: the decoder's branches for reads; each of the three gives out one value. -/
theorem loads : Obligations.Loads := by
  intro b w a s
  refine ⟨rfl, fun h => (decode_of_unaligned h).2, fun h hbank => (decode_of_bankHigh h hbank).2,
    fun h hbank hr => ?_, ?_, ?_, ?_⟩
  · rw [(decode_of_register h hbank).2]
    exact if_neg hr
  all_goals exact ⟨_, rfl, rfl, .refl s⟩

/-- Settles O29: the read is the flag VBLANK written and the word then given out. -/
theorem statusRead : Obligations.StatusRead := by
  intro s
  refine ⟨decode_regr_addr regCoreStatus, _, rfl, ?_, fun i hi => ?_, fun q hq => ?_, .refl s, rfl⟩
  · exact (statusBit_setStatus (by decide)).trans (if_pos rfl)
  · exact (statusBit_setStatus (by decide)).trans (if_neg fun e => hi (by simp [e]))
  · exact getReg_setStatus_of_ne fun e => hq (by simp [e])

-- the stores (R134, R138, R140, R141, R146 to R149, R153 to R155, R162, R164)

/-- Settles O8: each address is the encoding of its row (O1), and each row is the store of one word. -/
theorem passiveStores : Obligations.PassiveStores := by
  intro v s
  refine ⟨fun b w hw => ⟨decodeEncode (.regStore b w v) hw, ?_⟩,
    fun w => ⟨decodeEncode (.pciStore w v) rfl, storesWith_of_exec (bank_ne_status (by decide) w)⟩,
    fun w hw => ⟨decodeEncode (.intStore w v) hw, storesWith_of_exec (bank_ne_status (by decide) w)⟩,
    decode_regw_of_addr regIntStatus, decode_regw_of_addr regIntMask, storesWith_of_exec, storesWith_of_exec⟩
  simp only [Instr.wf, Bool.and_eq_true, decide_eq_true_eq] at hw
  obtain ⟨⟨hnamed, -⟩, -⟩ := hw
  exact storesWith_of_exec fun e => hnamed (e ▸ by decide)

/-- Settles O9: the five rows by their addresses; the descriptor of TEX.FORMAT by `decodeTexFormat_eq`. -/
theorem polyTexMirrors : Obligations.PolyTexMirrors := fun v s =>
  ⟨decode_regw_of_addr regPolyControl, decode_regw_of_addr regTexControl, decode_regw_of_addr regTexAddr,
    decode_regw_of_addr regTexFilter, decode_regw_of_addr regTexFormat,
    storesWith_of_exec, storesWith_of_exec, storesWith_of_exec, storesWith_of_exec,
    storesWith_of_exec (ho := by rw [← decodeTexFormat_eq]; rfl)⟩

/-- Settles O10: the five rows by their addresses; each is a store and its mirror. -/
theorem renderDmaMirrors : Obligations.RenderDmaMirrors := fun v s =>
  ⟨decode_regw_of_addr regRenderZbuffer, decode_regw_of_addr regRenderBlend, decode_regw_of_addr regDmaSrc,
    decode_regw_of_addr regDmaDest, decode_regw_of_addr regDmaCount,
    storesWith_of_exec, storesWith_of_exec, storesWith_of_exec, storesWith_of_exec, storesWith_of_exec⟩

/-- Settles O11: the stride, and the output `display_start`, besides the stored word. -/
theorem videoStores : Obligations.VideoStores := fun v s =>
  ⟨decode_regw_of_addr regVideoStride, decode_regw_of_addr regVideoFbaddr, storesWith_of_exec, storesWith_of_exec⟩

/-- Settles O12: the tile size by `tileSizeOf_eq`, besides the stored word. -/
theorem configSetsTileSize : Obligations.ConfigSetsTileSize := fun v s =>
  ⟨decode_regw_of_addr regCoreConfig, storesWith_of_exec (ho := by rw [← tileSizeOf_eq]; rfl)⟩

/-- A bit of a word with the bits of another cleared in it. -/
theorem bitOf_and_not (x v : Word) (i : Nat) : bitOf (x &&& ~~~v) i = (bitOf x i && !bitOf v i) := by
  unfold bitOf
  rw [BitVec.getLsbD_and, BitVec.getLsbD_not]
  by_cases hi : i < 32
  · simp [hi]
  · rw [BitVec.getLsbD_of_ge x i (by omega), Bool.false_and, Bool.false_and]

/-- Settles O13: the write is one store, to REG.INT.STATUS. -/
theorem intClearClearsBits : Obligations.IntClearClearsBits := by
  intro v s
  refine ⟨decode_regw_of_addr regIntClear, _, rfl, fun i => ?_, fun q hq => ?_, fun i _ => ?_, .refl s, rfl⟩
  · rw [getReg_setReg_self, bitOf_and_not]
  · exact getReg_setReg_of_ne fun e => hq (by simp [e])
  · exact statusBit_setReg_of_ne (by decide)

end Sys2Proof.Machine
end

section
/-! SUPPORT. The resets of CORE.RESET. -/

namespace Sys2Proof.Machine

variable {s : State} {v : Word} {q : RegName}

-- the full reset (R56, R136)

/-- The tile size of the default CONFIG word is 32: its two low bits are 2 (D9, R34). -/
theorem tileSizeOf_configDefault (p : Params) : tileSizeOf p.configDefault = 32 := by
  have low : p.configDefault.extractLsb' 0 2 = 2#2 := BitVec.extractLsb'_append_eq_right
  rw [tileSizeOf, low]
  rfl

/-- REG.CORE.STATUS after a full reset, as a word. -/
theorem statusSeed_eq_shiftLeft (p : Params) : statusSeed p = 1#32 <<< bitPlace p regCoreStatus bitFifoEmpty :=
  BitVec.zero_or

theorem eq_with_tileSize {n : Nat} (h : s.tileSize = n) : s = { s with tileSize := n } := by
  rw [← h]

-- the partial resets (R135, R137)

theorem getReg_partialResets : getReg (partialResets v s) q =
    if q.bank = bankPoly ∧ namedBit s.cfg regCoreReset v bitResetGeometry = true ∨
        q.bank = bankTex ∧ namedBit s.cfg regCoreReset v bitResetTexture = true ∨
        q.bank = bankRender ∧ namedBit s.cfg regCoreReset v bitResetRender = true ∨
        q.bank = bankDma ∧ namedBit s.cfg regCoreReset v bitResetDma = true then 0#32 else getReg s q := by
  have reversed (a b c d : Prop) : a ∨ b ∨ c ∨ d ↔ d ∨ c ∨ b ∨ a := by tauto
  simp only [partialResets, getReg_clearBankIf, clearBankIf_cfg, ← ite_or]
  exact if_congr (reversed _ _ _ _) rfl rfl

theorem partialResets_rest : partialResets v s = { s with regs := (partialResets v s).regs } :=
  regsOnly_trans clearBankIf_rest (regsOnly_trans clearBankIf_rest (regsOnly_trans clearBankIf_rest clearBankIf_rest))

end Sys2Proof.Machine

-- the two settling theorems stand beside, not in, the namespace of the operations whose names they have
namespace Sys2Proof.Laws

open Machine

/-- Settles O14: the seeded registers are read word by word; the rest of the state is that of the operation, with
the tile size of the default CONFIG word. -/
theorem fullReset : Obligations.FullReset := by
  intro v s hcore
  have seeded (q : RegName) := getReg_of_seedRegs (s := Machine.fullReset s) (q := q) (p := s.cfg) rfl
  simp only [statusSeed_eq_shiftLeft] at seeded
  have tiled := tileSizeOf_configDefault s.cfg
  refine ⟨Machine.fullReset s, if_pos hcore, seeded, fun hbits => ?_, fun _ => rfl, fun _ => rfl, ?_, ?_, ?_, ?_⟩
  · rw [seeded, if_neg (by decide), if_neg (by decide), if_pos rfl, bitPlace_default hbits]
    rfl
  · exact congrArg (ceilDiv s.width) tiled
  · exact congrArg (ceilDiv s.height) tiled
  · exact congrArg (gridTiles · s.width s.height) tiled
  · exact eq_with_tileSize tiled

/-- Settles O15: the banks by `getReg_partialResets`; REG.CORE.STATUS is in none of them. -/
theorem partialResets : Obligations.PartialResets := by
  intro v s hcore
  have rest := partialResets_rest (s := setReg regCoreReset v s) (v := v)
  have words (q : RegName) := getReg_partialResets (s := setReg regCoreReset v s) (v := v) (q := q)
  simp only [getReg_setReg, eq_comm (a := regCoreReset), setReg_cfg] at words
  refine ⟨Machine.partialResets v (setReg regCoreReset v s), if_neg (Bool.eq_false_iff.1 hcore), words, fun i _ => ?_,
    ?_, rest⟩
  · refine regBit_of_getReg ?_ (congrArg State.cfg rest :)
    rw [words, if_neg (by simp [regCoreStatus, regAt, bankCore, bankPoly, bankTex, bankRender, bankDma]),
      if_neg (by decide)]
  · rw [rest]
    exact .refl s

end Sys2Proof.Laws
end

section
/-! SUPPORT. A push in a busy window, and one on an idle block; the four forwarding writes of bank poly. -/

namespace Sys2Proof.Machine

variable {s t u w : State} {c : CmdId} {d v : Word} {r : RegName} {n : Nat}

-- a push in a busy window (R190, R192)

/-- While a render runs or a DMA is busy nothing is drained: the command is queued, or dropped by a full FIFO. -/
theorem push_of_busy (c : CmdId) (d : Word)
    (hbusy : statusBit s bitRenderRunning = true ∨ statusBit s bitDmaBusy = true) :
    ∃ t, push c d s = .next t ∧ (s.fifo.count ≠ s.cfg.fifoCapacity → Accepted c d s t) ∧
      (s.fifo.count = s.cfg.fifoCapacity → Dropped c d s t) := by
  have closed : drainGateOpen (acceptPush c d s) = false := by
    rw [drainGateOpen_acceptPush, drainGateOpen]
    rcases hbusy with h | h <;> simp [h]
  rcases push_cases c d s with ⟨hfull, e⟩ | ⟨-, hopen, -⟩ | ⟨hroom, -, e⟩
  · exact ⟨_, e, fun h => absurd hfull h, fun _ => fullPush_dropped c d s⟩
  · rw [closed] at hopen
    cases hopen
  · exact ⟨_, e, fun _ => acceptPush_accepted c d s, fun h => absurd h hroom⟩

theorem accepted_of_busy (hbusy : statusBit s bitRenderRunning = true ∨ statusBit s bitDmaBusy = true)
    (hroom : s.fifo.count ≠ s.cfg.fifoCapacity) (h : push c d s = .next t) : Accepted c d s t := by
  obtain ⟨u, hu, accepted, -⟩ := push_of_busy c d hbusy
  cases hu.symm.trans h
  exact accepted hroom

theorem dropped_of_full (hfull : s.fifo.count = s.cfg.fifoCapacity) (h : push c d s = .next t) : Dropped c d s t := by
  rw [push, if_pos hfull] at h
  cases h
  exact fullPush_dropped c d s

-- a push on an idle block (R190, R193)

/-- A FIFO with no entry, whose cursors stand together at one of its places (R49). -/
structure IdleFifo (capacity : Nat) (f : Fifo) : Prop where
  empty : f.count = 0
  together : f.wr = f.rd
  inside : f.rd < f.entry.length
  length : f.entry.length = capacity

theorem FifoInv.idle (h : FifoInv s) (hc : s.fifo.count = 0) : IdleFifo s.cfg.fifoCapacity s.fifo where
  empty := hc
  together := by rw [h.wr, hc, Nat.add_zero, Nat.mod_eq_of_lt h.rd]
  inside := h.length ▸ h.rd
  length := h.length

theorem IdleFifo.not_full {k : Nat} {f : Fifo} (h : IdleFifo k f) : f.count ≠ k := by
  have := h.inside
  have := h.length
  have := h.empty
  omega

/-- The entry put into an idle FIFO is the one at its read cursor. -/
theorem IdleFifo.head_put {k : Nat} {f : Fifo} (h : IdleFifo k f) (e : FifoEntry) : fifoHead (fifoPut k e f) = e := by
  have := h.inside
  simp [fifoHead, fifoPut, h.together, this]

theorem drainLoop_of_empty (h : s.fifo.count = 0) : drainLoop n s = .next s := by
  cases n with
  | zero => rfl
  | succ n => rw [drainLoop, if_pos h]

/-- A drain of one entry runs its command and retires it. -/
theorem drain_of_single (hc : s.fifo.count = 1)
    (hd : dispatch (fifoHead s.fifo).cmd (fifoHead s.fifo).data s = .next w) : drain s = .next (retireHead w) := by
  have queue : w.fifo = s.fifo := (congrArg State.fifo (dispatch_keeps hd).rest :)
  have emptied : (retireHead w).fifo.count = 0 := by rw [retireHead_rest, queue]; simp [fifoPop, hc]
  rw [drain, drainBatch, drainLoop, if_neg (by omega), hd, andThen_next, drainLoop_of_empty emptied]

/-- On an idle block the command runs inside the push, on the state with its entry queued, and is retired. -/
theorem push_of_idle (hidle : IdleFifo s.cfg.fifoCapacity s.fifo) (hopen : drainGateOpen s = true)
    (hd : dispatch c d (acceptPush c d s) = .next w) : push c d s = .next (retireHead w) := by
  have queue : (acceptPush c d s).fifo = fifoPut s.cfg.fifoCapacity ⟨c, d⟩ s.fifo := (acceptPush_accepted c d s).fifo
  rw [push, if_neg hidle.not_full, if_pos ((drainGateOpen_acceptPush c d s).trans hopen)]
  refine drain_of_single ?_ ?_
  · rw [queue]
    simp [fifoPut, hidle.empty]
  · rwa [queue, hidle.head_put]

/-- The FIFO and its flags once the command is retired: empty again, the cursors one place further. -/
theorem IdleFifo.retired (hidle : IdleFifo s.cfg.fifoCapacity s.fifo)
    (hd : dispatch c d (acceptPush c d s) = .next w) :
    (retireHead w).fifo.count = 0 ∧ (retireHead w).fifo.rd = (retireHead w).fifo.wr ∧
      (retireHead w).fifo.wr = (acceptPush c d s).fifo.wr ∧
      statusBit (retireHead w) bitFifoEmpty = true ∧ statusBit (retireHead w) bitFifoFull = false := by
  have accepted := acceptPush_accepted c d s
  have kept := (dispatch_keeps hd).rest
  have queue : w.fifo = fifoPut s.cfg.fifoCapacity ⟨c, d⟩ s.fifo := (congrArg State.fifo kept :).trans accepted.fifo
  have params : w.cfg = s.cfg := (congrArg State.cfg kept :).trans (congrArg State.cfg accepted.rest :)
  have popped : (retireHead w).fifo = fifoPop s.cfg.fifoCapacity (fifoPut s.cfg.fifoCapacity ⟨c, d⟩ s.fifo) := by
    rw [retireHead_rest, queue, params]
  rw [statusBit_retireHead, if_neg (by decide), if_pos rfl, statusBit_retireHead, if_pos rfl, popped, queue, params,
    accepted.fifo]
  simp [fifoPop, fifoPut, hidle.empty, hidle.together]

theorem drainGateOpen_of_bits (h1 : statusBit s bitRenderRunning = false) (h2 : statusBit s bitDmaBusy = false) :
    drainGateOpen s = true := by
  simp [drainGateOpen, h1, h2]

-- the forwarding writes (R142 to R145)

/-- The four writes, each with the register it stores and the id of the command it forwards. -/
def forwardingWrites (v : Word) (p : Params) : List (Instr × RegName × CmdId) :=
  [(.polyVertex v, regPolyVertex, p.fwdIdVertex), (.polyNormal v, regPolyNormal, p.fwdIdNormal),
    (.polyColor v, regPolyColor, p.fwdIdColor), (.polyTexcoord v, regPolyTexcoord, p.fwdIdTexcoord)]

theorem exec_forwarding {x : Instr × RegName × CmdId} (hx : x ∈ forwardingWrites v s.cfg) :
    exec x.1 s = push x.2.2 v (setReg x.2.1 v s) ∧ x.2.1 ≠ regCoreStatus := by
  simp only [forwardingWrites, List.mem_cons, List.not_mem_nil, or_false] at hx
  rcases hx with rfl | rfl | rfl | rfl <;> exact ⟨rfl, bank_ne_status (b := bankPoly) (by decide) _⟩

theorem regsSameExcept_setReg : RegsSameExcept [r] s (setReg r v s) := fun _ hq =>
  getReg_setReg_of_ne fun e => hq (by simp [e])

/-- What a push on a state with a register just stored leaves, seen from before the store. -/
theorem drained_of_setReg (hr : r ≠ regCoreStatus) (h : Drained (setReg r v s) t) :
    getReg t r = v ∧ RegsSameExcept [r, regCoreStatus] s t ∧ StatusSameExcept drainFlags s t ∧
      BytesSameButPixels (fun _ _ => True) s t ∧ DrainFrame s t := by
  refine ⟨?_, fun q hq => ?_, fun i hi => ?_, h.bytes, h.frame⟩
  · rw [h.regs r (by simpa using hr), getReg_setReg_self]
  · simp only [List.mem_cons, List.not_mem_nil, or_false, not_or] at hq
    rw [h.regs q (by simpa using hq.2), getReg_setReg_of_ne (Ne.symm hq.1)]
  · rw [h.status i hi, statusBit_setReg_of_ne hr]

/-- Settles O18: the store, then the push in a busy window (`push_of_busy`). -/
theorem forwardingWritesQueue : Obligations.ForwardingWritesQueue := by
  intro v s hbusy x hx
  obtain ⟨run, hr⟩ := exec_forwarding hx
  obtain ⟨t, ht, accepted, dropped⟩ := push_of_busy (s := setReg x.2.1 v s) x.2.2 v
    (by rwa [statusBit_setReg_of_ne hr, statusBit_setReg_of_ne hr])
  obtain ⟨stored, -⟩ := drained_of_setReg hr (push_drained ht)
  exact ⟨t, run.trans ht, stored, _, regsSameExcept_setReg, rfl, accepted, dropped⟩

/-- Settles O19: the store, then a push, which completes where FB covers the display (`push_completes`) and
changes what `push_drained` says. -/
theorem forwardingWritesComplete : Obligations.ForwardingWritesComplete := by
  intro v s x hx
  obtain ⟨run, hr⟩ := exec_forwarding hx
  refine ⟨⟨_, getReg_setReg_self, regsSameExcept_setReg, rfl, run⟩, fun hfb => ?_⟩
  obtain ⟨t, ht⟩ := push_completes (s := setReg x.2.1 v s) hfb x.2.2 v
  exact ⟨t, run.trans ht, drained_of_setReg hr (push_drained ht)⟩

/-- Settles O20: the push on an idle block (`push_of_idle`), and what retiring the entry changes. -/
theorem idleForwardRunsCommand : Obligations.IdleForwardRunsCommand := by
  intro v s hinv hc hrun hdma x hx
  obtain ⟨run, hr⟩ := exec_forwarding hx
  have idle : IdleFifo (setReg x.2.1 v s).cfg.fifoCapacity (setReg x.2.1 v s).fifo := hinv.idle hc
  have isOpen : drainGateOpen (setReg x.2.1 v s) = true := drainGateOpen_of_bits
    ((statusBit_setReg_of_ne hr).trans hrun) ((statusBit_setReg_of_ne hr).trans hdma)
  refine ⟨_, acceptPush_accepted x.2.2 v (setReg x.2.1 v s), fun w hw => ?_⟩
  have command := (dispatchRunsDecodedCommand x.2.2 v (acceptPush x.2.2 v (setReg x.2.1 v s))).1.trans hw
  have pushed := push_of_idle idle isOpen command
  obtain ⟨stored, -⟩ := drained_of_setReg hr (push_drained pushed)
  obtain ⟨emptied, cursors, written, empty, full⟩ := idle.retired command
  exact ⟨_, run.trans pushed, stored, emptied, cursors, written, empty, full,
    fun i hi => statusBit_retireHead_of_not_mem hi, fun q hq => getReg_retireHead_of_ne (by simpa using hq),
    by rw [retireHead_rest]⟩

end Sys2Proof.Machine
end

section
/-! SUPPORT. The write of RENDER.CONTROL: without START, with START, and with START on an idle block. -/

namespace Sys2Proof.Machine

variable {s t u w : State} {c : CmdId} {d v : Word} {q : RegName} {i : Nat} {x : Bool}

-- the parts of the write (R150, R151, R152)

/-- The register and its mirror stored (R150). -/
def renderStored (v : Word) (s : State) : State := { setReg regRenderControl v s with renderControl := v }

/-- What a start request pushes its command on: stored, with RENDER_BUSY raised (R151). -/
def renderRequested (v : Word) (s : State) : State := setStatus bitRenderBusy true (renderStored v s)

/-- The reset of bank render, where it is asked for (R152). -/
def resetRenderIf (x : Bool) (s : State) : State := if x then renderBankReset s else s

theorem exec_renderControl_of_not_start (h : namedBit s.cfg regRenderControl v bitStart = false) :
    exec (.renderControl v) s =
      .next (resetRenderIf (namedBit s.cfg regRenderControl v bitReset) (renderStored v s)) := by
  rw [exec, execRenderControl, if_neg (Bool.eq_false_iff.1 h)]
  rfl

theorem exec_renderControl_of_start (h : namedBit s.cfg regRenderControl v bitStart = true)
    (hw : push cmdIdRenderStart v (renderRequested v s) = .next w) :
    exec (.renderControl v) s = .next (resetRenderIf (namedBit s.cfg regRenderControl v bitReset) w) := by
  have pushed : renderStartRequest v (renderStored v s) = .next w := hw
  rw [exec, execRenderControl, if_pos h, ← renderStored, pushed]
  rfl

-- what the parts leave

theorem getReg_renderStored_of_ne (h : q ≠ regRenderControl) : getReg (renderStored v s) q = getReg s q :=
  getReg_setReg_of_ne (Ne.symm h)

theorem statusBit_renderStored (i : Nat) : statusBit (renderStored v s) i = statusBit s i :=
  statusBit_setReg_of_ne (by decide)

theorem renderRequested_spec (v : Word) (s : State) :
    getReg (renderRequested v s) regRenderControl = v ∧
    RegsSameExcept [regRenderControl, regCoreStatus] s (renderRequested v s) ∧
    statusBit (renderRequested v s) bitRenderBusy = true ∧
    StatusSameExcept [bitRenderBusy] s (renderRequested v s) ∧
    renderRequested v s = { s with regs := (renderRequested v s).regs, renderControl := v } := by
  unfold renderRequested
  refine ⟨?_, fun q hq => ?_, ?_, fun i hi => ?_, rfl⟩
  · rw [getReg_setStatus_of_ne (by decide)]
    exact getReg_setReg_self
  · simp only [List.mem_cons, List.not_mem_nil, or_false, not_or] at hq
    rw [getReg_setStatus_of_ne hq.2, getReg_renderStored_of_ne hq.1]
  · rw [statusBit_setStatus (by decide), if_pos rfl]
  · rw [statusBit_setStatus (by decide), if_neg fun e => hi (by simp [e]), statusBit_renderStored]

theorem resetRenderIf_rest : resetRenderIf x s = { s with regs := (resetRenderIf x s).regs } := by
  cases x <;> rfl

theorem statusBit_resetRenderIf (h : i ∉ [bitRenderBusy, bitRenderRunning]) :
    statusBit (resetRenderIf x s) i = statusBit s i := by
  cases x with
  | false => rfl
  | true => exact statusBit_renderBankReset.trans (if_neg (by simpa using h))

/-- The registers and the two flags after a reset of bank render that came on top of other changes. -/
theorem renderBankReset_spec (h : RegsSameExcept [regRenderControl, regCoreStatus] s w) :
    (∀ k, getReg (renderBankReset w) ⟨bankRender, k⟩ = 0#32) ∧
    (∀ q, q.bank ≠ bankRender → q ≠ regCoreStatus → getReg (renderBankReset w) q = getReg s q) ∧
    statusBit (renderBankReset w) bitRenderBusy = false ∧ statusBit (renderBankReset w) bitRenderRunning = false := by
  refine ⟨fun k => ?_, fun q hb hq => ?_, ?_, ?_⟩
  · rw [getReg_renderBankReset (bank_ne_status (by decide) k), if_pos rfl]
  · rw [getReg_renderBankReset hq, if_neg hb]
    have control : q ≠ regRenderControl := fun e => hb (e ▸ rfl)
    exact h q (by simp [control, hq])
  · rw [statusBit_renderBankReset, if_pos (.inl rfl)]
  · rw [statusBit_renderBankReset, if_pos (.inr rfl)]

/-- Settles O21: the store with its mirror, and the reset of the bank where it is asked for. -/
theorem renderControlWithoutStart : Obligations.RenderControlWithoutStart := by
  intro v s hstart
  have stored : RegsSameExcept [regRenderControl] s (renderStored v s) := fun q hq =>
    getReg_renderStored_of_ne fun e => hq (by simp [e])
  refine ⟨_, exec_renderControl_of_not_start hstart, fun hreset => ?_, fun hreset => ?_, ?_, ?_⟩
  · rw [hreset]
    exact ⟨getReg_setReg_self, stored, fun i _ => statusBit_renderStored i⟩
  · obtain ⟨words, others, busy, running⟩ := renderBankReset_spec (s := s) (w := renderStored v s)
      fun q hq => stored q fun h => hq (by simp_all)
    rw [hreset]
    refine ⟨words, others, busy, running, fun i hi => ?_⟩
    exact (statusBit_resetRenderIf (x := true) hi).trans (statusBit_renderStored i)
  · rw [resetRenderIf_rest]
    exact .refl s
  · rw [resetRenderIf_rest]
    rfl

-- a start (R151, R218)

/-- What a start leaves, before a reset of the same write: the registers, the flags, the bytes of FB and the
frame, from the request to the end of the push. -/
theorem renderRequested_push (hw : push cmdIdRenderStart v (renderRequested v s) = .next w) :
    getReg w regRenderControl = v ∧ RegsSameExcept [regRenderControl, regCoreStatus] s w ∧
    StatusSameExcept drainFlags s w ∧ BytesSameButPixels (fun _ _ => True) s w ∧
    DrainFrame { s with renderControl := v } w := by
  obtain ⟨stored, others, -, flags, -⟩ := renderRequested_spec v s
  have drained := push_drained hw
  refine ⟨(drained.regs _ (by decide)).trans stored, fun q hq => ?_, fun i hi => ?_, drained.bytes, drained.frame⟩
  · have notStatus : q ∉ [regCoreStatus] := fun h => hq (List.mem_cons_of_mem _ h)
    exact (drained.regs q notStatus).trans (others q hq)
  · have notBusy : i ∉ [bitRenderBusy] := fun h => hi ((by decide : [bitRenderBusy] ⊆ drainFlags) h)
    exact (drained.status i hi).trans (flags i notBusy)

/-- A change of registers alone is inside the frame of a drain. -/
theorem drainFrame_of_regs (h : t = { s with regs := t.regs }) : DrainFrame s t := by
  unfold DrainFrame
  rw [h]

/-- Settles O22: the push on the requested state completes (`push_completes`); a reset of the same write then
changes registers of its bank and the two render flags only. -/
theorem renderControlStart : Obligations.RenderControlStart := by
  intro v s hfb hstart
  obtain ⟨w, hw⟩ := push_completes (s := renderRequested v s) hfb cmdIdRenderStart v
  obtain ⟨stored, others, flags, bytes, frame⟩ := renderRequested_push hw
  obtain ⟨stored', others', raised, flags', rest'⟩ := renderRequested_spec v s
  have rest := resetRenderIf_rest (x := namedBit s.cfg regRenderControl v bitReset) (s := w)
  refine ⟨_, exec_renderControl_of_start hstart hw, fun hreset => ?_, fun hreset => ?_, fun hfull => ?_,
    ⟨_, w, stored', others', raised, flags', rest', hw, rest, fun hreset => ?_, fun hbusy hroom => ?_⟩,
    fun i hi => ?_, ?_, frame.trans (drainFrame_of_regs rest)⟩
  · rw [hreset]
    exact ⟨push_keeps_busy hw raised, stored, others⟩
  · rw [hreset]
    obtain ⟨words, outside, busy, running⟩ := renderBankReset_spec others
    exact ⟨busy, running, words, outside⟩
  · have dropped := dropped_of_full (s := renderRequested v s) hfull hw
    refine ⟨(statusBit_resetRenderIf (by decide)).trans dropped.full, ?_⟩
    rw [rest, dropped.rest]
    rfl
  · rw [hreset]
    rfl
  · exact accepted_of_busy (by rwa [flags' _ (by decide), flags' _ (by decide)]) hroom hw
  · have notRender : i ∉ [bitRenderBusy, bitRenderRunning] := fun h =>
      hi ((by decide : [bitRenderBusy, bitRenderRunning] ⊆ drainFlags) h)
    exact (statusBit_resetRenderIf notRender).trans (flags i hi)
  · rw [rest]
    exact bytes

-- a start on an idle block (R151, R218, R255)

/-- The state in which a render start ends: the frame finished, the busy flags raised, the timer armed. -/
def renderDone (c : Canvas) (s : State) : State := armTimer (raiseRenderBusy (finishFrame c s))

/-- The command of a render start walks the tiles over the old FB and a cleared ZBUF (R218, R255). -/
theorem dispatch_renderStart (hfb : FbCovers s) (d : Word) : ∃ c,
    renderTiles (viewOf s) s.polys s.tiles ⟨[], fbMemory s⟩ = some c ∧
      dispatch cmdIdRenderStart d s = .next (renderDone c s) := by
  obtain ⟨t, ht⟩ := renderScene_completes hfb
  obtain ⟨c, hc, rfl⟩ := renderScene_eq_next ht
  have run : dispatch cmdIdRenderStart d s = execCmdRenderStart d s := rfl
  refine ⟨c, hc, ?_⟩
  rw [run, execCmdRenderStart, ht]
  rfl

theorem renderDone_flags {c : Canvas} : statusBit (renderDone c s) bitRenderBusy = true ∧
    statusBit (renderDone c s) bitRenderRunning = true := by
  have armed (i : Nat) : statusBit (renderDone c s) i = statusBit (raiseRenderBusy (finishFrame c s)) i :=
    statusBit_congr rfl
  rw [armed, armed, raiseRenderBusy, statusBit_setStatus (by decide), if_neg (by decide),
    statusBit_setStatus (by decide), if_pos rfl, statusBit_setStatus (by decide), if_pos rfl]
  exact ⟨rfl, rfl⟩

theorem renderDone_spec (c : Canvas) (s : State) : (renderDone c s).timerArmed = true ∧ (renderDone c s).polys = [] ∧
    (renderDone c s).tiles = s.tiles.map emptyTile ∧
    (renderDone c s).out = .timerArm s.cfg.timerLatencyUs :: .frameChanged :: s.out ∧
    (renderDone c s).zfill = .cleared ∧ (renderDone c s).zbuf = c.zbuf ∧ fbMemory (renderDone c s) = c.mem := by
  refine ⟨rfl, rfl, rfl, ?_, rfl, rfl, fbMemory_finishFrame c⟩
  simp [renderDone, raiseRenderBusy, finishFrame]

/-- A render start pushed on an idle block renders the scene inside the push, and the FIFO is empty again. -/
theorem push_renderStart_of_idle (hfb : FbCovers s) (hidle : IdleFifo s.cfg.fifoCapacity s.fifo)
    (hopen : drainGateOpen s = true) (d : Word) : ∃ t, push cmdIdRenderStart d s = .next t ∧
    statusBit t bitFifoEmpty = true ∧ statusBit t bitFifoFull = false ∧ statusBit t bitRenderBusy = true ∧
    statusBit t bitRenderRunning = true ∧ t.fifo.count = 0 ∧
    t.timerArmed = true ∧ t.polys = [] ∧ t.tiles = s.tiles.map emptyTile ∧
    t.out = .timerArm s.cfg.timerLatencyUs :: .frameChanged :: s.out ∧ t.zfill = .cleared ∧
    renderTiles (viewOf s) s.polys s.tiles ⟨[], fbMemory s⟩ = some ⟨t.zbuf, fbMemory t⟩ := by
  have queued := acceptPush_rest cmdIdRenderStart d s
  obtain ⟨c, hc, hd⟩ := dispatch_renderStart (s := acceptPush cmdIdRenderStart d s) (by rw [queued]; exact hfb) d
  obtain ⟨emptied, -, -, empty, full⟩ := hidle.retired hd
  obtain ⟨busy, running⟩ := renderDone_flags (c := c) (s := acceptPush cmdIdRenderStart d s)
  obtain ⟨armed, polys, tiles, out, filled, zbuf, mem⟩ := renderDone_spec c (acceptPush cmdIdRenderStart d s)
  refine ⟨_, push_of_idle hidle hopen hd, empty, full, (statusBit_retireHead_of_not_mem (by decide)).trans busy,
    (statusBit_retireHead_of_not_mem (by decide)).trans running, emptied, ?_⟩
  rw [retireHead_rest]
  refine ⟨armed, polys, tiles.trans (by rw [queued]), out.trans (by rw [queued]), filled, ?_⟩
  have canvas : renderTiles (viewOf s) s.polys s.tiles ⟨[], fbMemory s⟩ = some c := by
    rw [queued] at hc
    exact hc
  exact canvas.trans (congrArg some (congrArg₂ Canvas.mk zbuf mem).symm)

/-- Settles O23: the push on the requested state, which is idle as the state before the write was. -/
theorem idleRenderStart : Obligations.IdleRenderStart := by
  intro v s hinv hfb hc hrun hdma hstart hreset
  obtain ⟨-, -, -, flags, -⟩ := renderRequested_spec v s
  have isOpen : drainGateOpen (renderRequested v s) = true := drainGateOpen_of_bits
    ((flags _ (by decide)).trans hrun) ((flags _ (by decide)).trans hdma)
  obtain ⟨t, ht, empty, full, busy, running, emptied, armed, polys, tiles, out, filled, canvas⟩ :=
    push_renderStart_of_idle (s := renderRequested v s) hfb (hinv.idle hc) isOpen v
  obtain ⟨-, -, kept, bytes, frame⟩ := renderRequested_push ht
  have run := exec_renderControl_of_start hstart ht
  rw [hreset] at run
  exact ⟨t, run, empty, full, busy, running, kept, emptied, armed, polys, tiles, out, filled, canvas, bytes, frame⟩

end Sys2Proof.Machine
end

section
/-! SUPPORT. The write of DMA.CONTROL: without START, and with START on disjoint ranges inside VRAM. -/

namespace Sys2Proof.Machine

variable {s t w : State} {v : Word} {q : RegName} {i : Nat} {x : Bool}

-- the parts of the write (R159, R161)

/-- The register and its mirror stored (R159). -/
def dmaStored (v : Word) (s : State) : State := { setReg regDmaControl v s with dmaControl := v }

/-- The reset of bank dma, where it is asked for (R161). -/
def resetDmaIf (x : Bool) (s : State) : State := if x then dmaBankReset s else s

theorem exec_dmaControl_of_not_start (h : namedBit s.cfg regDmaControl v bitStart = false) :
    exec (.dmaControl v) s = .next (resetDmaIf (namedBit s.cfg regDmaControl v bitReset) (dmaStored v s)) := by
  rw [exec, execDmaControl, if_neg (Bool.eq_false_iff.1 h)]
  rfl

theorem exec_dmaControl_of_start (h : namedBit s.cfg regDmaControl v bitStart = true)
    (hw : dmaStart (dmaStored v s) = .next w) :
    exec (.dmaControl v) s = .next (resetDmaIf (namedBit s.cfg regDmaControl v bitReset) w) := by
  rw [exec, execDmaControl, if_pos h, ← dmaStored, hw]
  rfl

theorem getReg_dmaStored_of_ne (h : q ≠ regDmaControl) : getReg (dmaStored v s) q = getReg s q :=
  getReg_setReg_of_ne (Ne.symm h)

theorem statusBit_dmaStored (i : Nat) : statusBit (dmaStored v s) i = statusBit s i :=
  statusBit_setReg_of_ne (by decide)

theorem resetDmaIf_rest : resetDmaIf x s = { s with regs := (resetDmaIf x s).regs } := by
  cases x <;> rfl

theorem statusBit_resetDmaIf (h : i ≠ bitDmaBusy) : statusBit (resetDmaIf x s) i = statusBit s i := by
  cases x with
  | false => rfl
  | true => exact statusBit_dmaBankReset.trans (if_neg h)

/-- The registers and the flag after a reset of bank dma that came on top of changes inside it. -/
theorem dmaBankReset_spec (h : ∀ q, q.bank ≠ bankDma → q ≠ regCoreStatus → getReg w q = getReg s q) :
    statusBit (dmaBankReset w) bitDmaBusy = false ∧ (∀ k, getReg (dmaBankReset w) ⟨bankDma, k⟩ = 0#32) ∧
    ∀ q, q.bank ≠ bankDma → q ≠ regCoreStatus → getReg (dmaBankReset w) q = getReg s q := by
  refine ⟨?_, fun k => ?_, fun q hb hq => ?_⟩
  · rw [statusBit_dmaBankReset, if_pos rfl]
  · rw [getReg_dmaBankReset (bank_ne_status (by decide) k), if_pos rfl]
  · rw [getReg_dmaBankReset hq, if_neg hb, h q hb hq]

/-- Settles O24: the store with its mirror, and the reset of the bank where it is asked for. -/
theorem dmaControlWithoutStart : Obligations.DmaControlWithoutStart := by
  intro v s hstart
  refine ⟨_, exec_dmaControl_of_not_start hstart, fun hreset => ?_, fun hreset => ?_, ?_, ?_⟩
  · rw [hreset]
    exact ⟨getReg_setReg_self, fun q hq => getReg_dmaStored_of_ne fun e => hq (by simp [e]),
      fun i _ => statusBit_dmaStored i⟩
  · obtain ⟨busy, words, others⟩ := dmaBankReset_spec (s := s) (w := dmaStored v s)
      fun q hb _ => getReg_dmaStored_of_ne fun e => hb (e ▸ rfl)
    rw [hreset]
    refine ⟨words, others, busy, fun i hi => ?_⟩
    exact (statusBit_resetDmaIf (x := true) (by simpa using hi)).trans (statusBit_dmaStored i)
  · rw [resetDmaIf_rest]
    exact .refl s
  · rw [resetDmaIf_rest]
    rfl

-- the registers around a transfer (R300, R304)

theorem getReg_dmaBegin_of_ne (h1 : q ≠ regDmaStatus) (h2 : q ≠ regCoreStatus) :
    getReg (dmaBegin s) q = getReg s q := by
  rw [dmaBegin, getReg_setRegBit, if_neg (Ne.symm h1), getReg_setStatus_of_ne h2]

theorem statusBit_dmaBegin : statusBit (dmaBegin s) i = if i = bitDmaBusy then true else statusBit s i := by
  rw [dmaBegin, statusBit_setRegBit_of_ne (by decide), statusBit_setStatus (by decide)]
  simp only [eq_comm]

theorem regBit_dmaBegin (h : i ≠ bitDmaActive) : regBit (dmaBegin s) regDmaStatus i = regBit s regDmaStatus i := by
  rw [dmaBegin, regBit_setRegBit (by decide), if_neg (Ne.symm h)]
  exact regBit_setReg_of_ne (by decide)

theorem getReg_dmaConclude_of_ne (h : q ≠ regDmaStatus) : getReg (dmaConclude s) q = getReg s q := by
  rw [dmaConclude, getReg_armTimer, getReg_setRegBit, if_neg (Ne.symm h), getReg_setRegBit, if_neg (Ne.symm h)]

theorem regBit_dmaConclude : regBit (dmaConclude s) regDmaStatus i =
    if i = bitDmaDone then true else if i = bitDmaActive then false else regBit s regDmaStatus i := by
  rw [dmaConclude, regBit_congr (armTimer_regs _), regBit_setRegBit (by decide), regBit_setRegBit (by decide)]
  simp only [eq_comm]

/-- The registers of a start, whatever stands between its busy window and its conclusion, as long as it writes no
register: a copy or a diagnostic (R300, R303, R304). -/
theorem dmaStarted_of_transfer (hregs : w.regs = (dmaBegin (dmaStored v s)).regs) (hcfg : w.cfg = s.cfg) :
    DmaStarted v s (resetDmaIf (namedBit s.cfg regDmaControl v bitReset) (dmaConclude w)) := by
  have words (q : RegName) (h1 : q ≠ regDmaStatus) (h2 : q ≠ regCoreStatus) :
      getReg (dmaConclude w) q = getReg (dmaStored v s) q := by
    rw [getReg_dmaConclude_of_ne h1, getReg_congr hregs, getReg_dmaBegin_of_ne h1 h2]
  have flags (i : Nat) : statusBit (dmaConclude w) i = if i = bitDmaBusy then true else statusBit s i :=
    calc statusBit (dmaConclude w) i
        = statusBit w i := regBit_of_getReg (getReg_dmaConclude_of_ne (by decide))
      _ = statusBit (dmaBegin (dmaStored v s)) i := statusBit_congr hregs hcfg
      _ = if i = bitDmaBusy then true else statusBit s i := by rw [statusBit_dmaBegin, statusBit_dmaStored]
  refine ⟨fun i hi => ?_, fun hreset => ?_, fun hreset => ?_⟩
  · have other : i ≠ bitDmaBusy := by simpa using hi
    rw [statusBit_resetDmaIf other, flags, if_neg other]
  · rw [hreset]
    refine dmaBankReset_spec fun q hb hq => ?_
    have control : q ≠ regDmaControl := fun e => hb (e ▸ rfl)
    exact (words q (fun e => hb (e ▸ rfl)) hq).trans (getReg_dmaStored_of_ne control)
  · rw [hreset]
    refine ⟨(flags _).trans (if_pos rfl), ?_, ?_, ?_, fun i hactive hdone => ?_, fun q hq => ?_⟩
    · exact (words _ (by decide) (by decide)).trans getReg_setReg_self
    · exact regBit_dmaConclude.trans (if_neg (by decide))
    · exact regBit_dmaConclude
    · refine regBit_dmaConclude.trans ?_
      rw [if_neg hdone, if_neg hactive, regBit_congr hregs hcfg, regBit_dmaBegin hactive]
      exact regBit_setReg_of_ne (by decide)
    · simp only [List.mem_cons, List.not_mem_nil, or_false, not_or] at hq
      obtain ⟨hcontrol, hstatus, hcore⟩ := hq
      exact (words q hstatus hcore).trans (getReg_dmaStored_of_ne hcontrol)

-- the copy (R303, U7)

/-- On disjoint ranges either copy gives the destination the bytes that the source had. -/
theorem memRead_dmaCopy_of_disjoint {how : DmaOverlap} {src dst n k : Nat} {m : Memory}
    (hd : src + n ≤ dst ∨ dst + n ≤ src) (hk : k < n) :
    memRead (dmaCopy how src dst n m) (dst + k) = memRead m (src + k) := by
  cases how with
  | snapshot =>
    rw [dmaCopy, memRead_copySnapshot, if_pos (by omega), Nat.add_sub_cancel_left]
  | forward =>
    rw [dmaCopy]
    induction n with
    | zero => omega
    | succ n ih =>
      rw [copyForward, memRead_memWrite]
      by_cases h : k = n
      · rw [if_pos (by omega), memRead_copyForward_of_outside (by omega), h]
      · rw [if_neg (by omega), ih (by omega) (by omega)]

/-- The state after a start that copies: the copy stands between the busy window and the conclusion (R300 to
R304). -/
def dmaCopied (v : Word) (s : State) : State :=
  dmaConclude { dmaBegin (dmaStored v s) with
    vram := dmaCopy s.dmaOverlap (dmaSource s) (dmaTarget s) (dmaSize s) s.vram }

theorem dmaConclude_rest : dmaConclude s = { s with
    regs := (dmaConclude s).regs, timerArmed := true, out := .timerArm s.cfg.timerLatencyUs :: s.out } := rfl

theorem dmaBegin_rest : dmaBegin s = { s with regs := (dmaBegin s).regs } := rfl

theorem dmaCopied_rest : dmaCopied v s = { s with
    regs := (dmaCopied v s).regs
    vram := dmaCopy s.dmaOverlap (dmaSource s) (dmaTarget s) (dmaSize s) s.vram
    dmaControl := v
    timerArmed := true
    out := .timerArm s.cfg.timerLatencyUs :: s.out } := by
  rw [dmaCopied, dmaConclude_rest, dmaBegin_rest]
  rfl

/-- A start whose ranges lie inside VRAM copies, with the parameters as they stood before the write
(`dma_parameters_start`). -/
theorem dmaStart_of_valid (hsrc : dmaSource s < s.cfg.vramSize) (hdst : dmaTarget s < s.cfg.vramSize)
    (hend : dmaTarget s + dmaSize s ≤ s.cfg.vramSize) (hin : dmaSource s + dmaSize s ≤ s.cfg.vramSize) :
    dmaStart (dmaStored v s) = .next (dmaCopied v s) := by
  obtain ⟨esrc, edst, esize⟩ := dma_parameters_start v s
  rw [← dmaStored] at esrc edst esize
  have params : (dmaBegin (dmaStored v s)).cfg = s.cfg := rfl
  have valid : dmaValid (dmaBegin (dmaStored v s)) = true := by
    simp only [dmaValid, esrc, edst, esize, params, Bool.and_eq_true, decide_eq_true_eq]
    exact ⟨⟨hsrc, hdst⟩, hend⟩
  have inside : ¬ dmaOverrun (dmaBegin (dmaStored v s)) = true := by
    simp only [dmaOverrun, esrc, esize, params, decide_eq_true_eq]
    exact Nat.not_lt.2 hin
  rw [dmaStart, dmaTransfer, if_pos valid, if_neg inside, esrc, edst, esize]
  rfl

/-- Settles O25: the bytes of the copy, and the registers that every start leaves; a reset of the same write
changes registers only. -/
theorem dmaCopies : Obligations.DmaCopies := by
  intro v s hstart hsrc hdst hend hin hdisjoint
  have run := exec_dmaControl_of_start hstart (dmaStart_of_valid (v := v) hsrc hdst hend hin)
  refine ⟨_, run, fun k hk => ?_, fun a ha => ?_, ?_, ?_, dmaStarted_of_transfer rfl rfl, ?_⟩ <;>
    rw [resetDmaIf_rest, dmaCopied_rest]
  · exact memRead_dmaCopy_of_disjoint hdisjoint hk
  · exact memRead_dmaCopy_of_outside (by omega)
  · exact fun _ => rfl
  · exact fun _ => rfl

end Sys2Proof.Machine
end

section
/-! SUPPORT. The command FIFO: a push, the live entries as a list, and the drain as the commands of the oldest
entries run one after another. A drained command and the same command run with no FIFO around it start in states
that differ in the FIFO and its two flags only (`FifoApart`), and no command reads either. -/

namespace Sys2Proof.Machine

variable {s t u : State} {c : CmdId} {d : Word} {f : Fifo} {e : FifoEntry} {k n i : Nat} {x : Bool}

-- the live entries (R49)

theorem fifoLive_of_empty (h : f.count = 0) : fifoLive k f = [] := by
  rw [fifoLive, h]
  rfl

/-- The oldest live entry is the one at the read cursor; a pop leaves the others (R193). -/
theorem fifoLive_eq_cons (hc : f.count ≠ 0) (hrd : f.rd < k) :
    fifoLive k f = fifoHead f :: fifoLive k (fifoPop k f) := by
  obtain ⟨m, hm⟩ := Nat.exists_eq_succ_of_ne_zero hc
  have head : (f.rd + 0) % k = f.rd := Nat.mod_eq_of_lt hrd
  simp only [fifoLive, fifoPop, hm, Nat.succ_sub_one, List.range_succ_eq_map, List.map_cons, List.map_map, head]
  refine congrArg₂ List.cons rfl (List.map_congr_left fun j _ => ?_)
  have shifted : (f.rd + (j + 1)) % k = ((f.rd + 1) % k + j) % k := by
    rw [Nat.mod_add_mod, Nat.add_right_comm, Nat.add_assoc]
  rw [Function.comp_apply, Nat.succ_eq_add_one, shifted]

/-- The place after the live entries is none of theirs (R49). -/
theorem live_place_ne {r j m : Nat} (hj : j < m) (hm : m < k) : (r + m) % k ≠ (r + j) % k := by
  intro h
  have same : m % k = j % k := Nat.ModEq.add_left_cancel' r h
  rw [Nat.mod_eq_of_lt hm, Nat.mod_eq_of_lt (hj.trans hm)] at same
  exact absurd same hj.ne'

/-- An entry put at the write cursor of a FIFO with room is its newest live one (R190). -/
theorem fifoLive_fifoPut (hlen : f.entry.length = k) (hroom : f.count < k) (hwr : f.wr = (f.rd + f.count) % k) :
    fifoLive k (fifoPut k e f) = fifoLive k f ++ [e] := by
  have inside : (f.rd + f.count) % k < f.entry.length := by
    rw [hlen]
    exact Nat.mod_lt _ (Nat.zero_lt_of_lt hroom)
  simp only [fifoLive, fifoPut, hwr, List.range_succ, List.map_append, List.map_singleton]
  congr 1
  · refine List.map_congr_left fun j hj => ?_
    rw [List.getD_eq_getElem?_getD, List.getElem?_set_ne (live_place_ne (List.mem_range.1 hj) hroom),
      List.getD_eq_getElem?_getD]
  · rw [List.getD_eq_getElem?_getD, List.getElem?_set_self inside, Option.getD_some]

theorem FifoInv.live_of_accepted (h : FifoInv s) (hroom : s.fifo.count ≠ s.cfg.fifoCapacity) (a : Accepted c d s t) :
    fifoLive t.cfg.fifoCapacity t.fifo = fifoLive s.cfg.fifoCapacity s.fifo ++ [⟨c, d⟩] := by
  have params : t.cfg = s.cfg := (congrArg State.cfg a.rest :)
  rw [params, a.fifo]
  exact fifoLive_fifoPut h.length (lt_of_le_of_ne h.count hroom) h.wr

-- states that differ in the FIFO and its flags

/-- A state with another register file and another FIFO. -/
def withQueue (r : Cells 32) (f : Fifo) (s : State) : State := { s with regs := r, fifo := f }

theorem retireHead_eq_withQueue (s : State) :
    retireHead s = withQueue (retireHead s).regs (fifoPop s.cfg.fifoCapacity s.fifo) s := retireHead_rest s

/-- The second state is the first but for the FIFO and the flags FIFO_EMPTY and FIFO_FULL. -/
structure FifoApart (s t : State) : Prop where
  status : StatusSameExcept [bitFifoEmpty, bitFifoFull] s t
  regs : RegsSameExcept [regCoreStatus] s t
  rest : t = withQueue t.regs t.fifo s

theorem FifoApart.refl (s : State) : FifoApart s s := ⟨fun _ _ => rfl, fun _ _ => rfl, rfl⟩

theorem FifoApart.retireHead (h : FifoApart s t) : FifoApart s (retireHead t) where
  status i hi := (statusBit_retireHead_of_not_mem hi).trans (h.status i hi)
  regs q hq := (getReg_retireHead_of_ne (by simpa using hq)).trans (h.regs q hq)
  rest := by
    have popped := retireHead_eq_withQueue t
    have moved := congrArg (withQueue (Machine.retireHead t).regs (fifoPop t.cfg.fifoCapacity t.fifo)) h.rest
    rw [(congrArg State.fifo popped :)]
    exact popped.trans moved

/-- The same flag written in both. -/
theorem FifoApart.setStatus (h : FifoApart s t) (hi : i < 32) : FifoApart (setStatus i x s) (setStatus i x t) where
  status j hj := by rw [statusBit_setStatus hi, statusBit_setStatus hi, h.status j hj]
  regs q hq := by
    have notStatus : q ≠ regCoreStatus := by simpa using hq
    rw [getReg_setStatus_of_ne notStatus, getReg_setStatus_of_ne notStatus, h.regs q hq]
  rest := (congrArg (withQueue (Machine.setStatus i x t).regs t.fifo) h.rest :)

-- updates that neither read nor write the registers and the FIFO

/-- An update that neither reads nor writes the registers and the FIFO, and keeps the parameters. -/
structure QueueBlind (upd : State → State) : Prop where
  commutes : ∀ r f s, upd (withQueue r f s) = withQueue r f (upd s) := by intros; rfl
  cfg : ∀ s, (upd s).cfg = s.cfg := by intros; rfl

theorem QueueBlind.comp {g upd : State → State} (hg : QueueBlind g) (hu : QueueBlind upd) :
    QueueBlind fun s => g (upd s) where
  commutes r f s := by rw [hu.commutes, hg.commutes]
  cfg s := by rw [hg.cfg, hu.cfg]

theorem QueueBlind.regs {upd : State → State} (hu : QueueBlind upd) (s : State) : (upd s).regs = s.regs :=
  (congrArg State.regs (hu.commutes s.regs s.fifo s) :)

theorem QueueBlind.fifo {upd : State → State} (hu : QueueBlind upd) (s : State) : (upd s).fifo = s.fifo :=
  (congrArg State.fifo (hu.commutes s.regs s.fifo s) :)

theorem FifoApart.update (h : FifoApart s t) {upd : State → State} (hu : QueueBlind upd) :
    FifoApart (upd s) (upd t) where
  status i hi := by
    rw [statusBit_congr (hu.regs t) (hu.cfg t), statusBit_congr (hu.regs s) (hu.cfg s), h.status i hi]
  regs q hq := by rw [getReg_congr (hu.regs t), getReg_congr (hu.regs s), h.regs q hq]
  rest := by
    have moved : upd t = withQueue t.regs t.fifo (upd s) := (congrArg upd h.rest).trans (hu.commutes _ _ s)
    rw [hu.regs t, hu.fifo t]
    exact moved

theorem finalizePolygon_queueBlind : QueueBlind finalizePolygon where
  commutes r f s := by
    rcases finalizePolygon_cases s with ⟨full, e⟩ | ⟨room, e⟩ <;> rw [e]
    · exact if_pos full
    · exact if_neg room
  cfg s := (congrArg State.cfg (finalizePolygon_rest s) :)

theorem finishFrame_queueBlind (m : Canvas) : QueueBlind (finishFrame m) where
  commutes r f s := by
    unfold finishFrame setFbMemory withQueue
    cases s.fb.store <;> rfl
  cfg s := by
    unfold finishFrame setFbMemory
    cases s.fb.store <;> rfl

-- the commands (R210 to R219)

/-- The same vertex placed in both. -/
theorem FifoApart.vertex (h : FifoApart s t) {a b : BitVec 10} {z : BitVec 12} (hs : execCmdVertex a b z s = .next u) :
    ∃ w, execCmdVertex a b z t = .next w ∧ FifoApart u w := by
  have placed : QueueBlind fun s => updateOpenSlot (placeVertex s.cfg.numerics a b z s.width s.height) s := {}
  have count : t.vcount = s.vcount := (congrArg State.vcount h.rest :)
  unfold execCmdVertex at hs ⊢
  simp only [count] at hs ⊢
  split_ifs at hs ⊢ with third <;> cases hs
  · have restarted : QueueBlind fun s => { s with vcount := 0 } := {}
    exact ⟨_, rfl, h.update (restarted.comp (finalizePolygon_queueBlind.comp placed))⟩
  · have advanced : QueueBlind fun w => { w with vcount := s.vcount + 1 } := {}
    exact ⟨_, rfl, h.update (advanced.comp placed)⟩

theorem FifoApart.renderScene (h : FifoApart s t) (hs : renderScene s = .next u) :
    ∃ w, renderScene t = .next w ∧ FifoApart u w := by
  obtain ⟨m, hm, rfl⟩ := renderScene_eq_next hs
  have drawn : renderTiles (viewOf t) t.polys t.tiles ⟨[], fbMemory t⟩ = some m := by
    rw [h.rest]
    exact hm
  exact ⟨_, by rw [Machine.renderScene, drawn], h.update (finishFrame_queueBlind m)⟩

/-- The same render start in both: the scene, the busy flags, the timer (R218). -/
theorem FifoApart.renderStart (h : FifoApart s t) (hs : execCmdRenderStart d s = .next u) :
    ∃ w, execCmdRenderStart d t = .next w ∧ FifoApart u w := by
  obtain ⟨s1, scene, hs⟩ := andThen_eq_next.1 hs
  obtain ⟨t1, scene', h1⟩ := h.renderScene scene
  cases hs
  have raised : FifoApart (raiseRenderBusy s1) (raiseRenderBusy t1) := (h1.setStatus (by decide)).setStatus (by decide)
  have armed : QueueBlind armTimer := {}
  exact ⟨_, by rw [execCmdRenderStart, scene', andThen_next], raised.update armed⟩

/-- No command reads the FIFO or its flags: the same command in both leaves states as far apart (R210). -/
theorem FifoApart.dispatch (h : FifoApart s t) (hs : dispatch c d s = .next u) :
    ∃ w, dispatch c d t = .next w ∧ FifoApart u w := by
  unfold Machine.dispatch at hs ⊢
  split_ifs at hs ⊢
  · exact h.vertex hs
  · cases hs
    exact ⟨_, rfl, h.update (upd := fun s => { s with texAddr := _ }) {}⟩
  · cases hs
    exact ⟨_, rfl, h.update (upd := fun s => updateOpenSlot (fun v =>
      { v with u := texCoordOf s.cfg.numerics _, v := texCoordOf s.cfg.numerics _ }) s) {}⟩
  · cases hs
    exact ⟨_, rfl, h.update (upd := fun s => { s with texFormatBits := _ }) {}⟩
  · cases hs
    exact ⟨_, rfl, h.update (upd := diag _) {}⟩
  · cases hs
    exact ⟨_, rfl, h.update (upd := fun s => updateOpenSlot (fun v =>
      { v with color := colorOf s.cfg.numerics _ _ _ _ }) s) {}⟩
  · exact h.renderStart hs
  · cases hs
    exact ⟨_, rfl, h.update (upd := diag _) {}⟩

-- the drain (R193, R194)

theorem runCommands_cons {es : List FifoEntry} :
    runCommands (e :: es) s = andThen (dispatch e.cmd e.data s) (runCommands es) := by
  rw [runCommands, (dispatchRunsDecodedCommand e.cmd e.data s).1]

/-- One step of the drain: the command of the oldest live entry, then the drain of the others. -/
theorem drainLoop_succ_of_dispatch {w : State} (hc : t.fifo.count ≠ 0)
    (hd : dispatch (fifoHead t.fifo).cmd (fifoHead t.fifo).data t = .next w) :
    drainLoop (n + 1) t = drainLoop n (retireHead w) := by
  rw [drainLoop, if_neg hc, hd, andThen_next]

/-- Where the commands of the oldest `n` live entries run, the drain of `n` commands runs them, and leaves the
other entries. -/
theorem drainLoop_of_runCommands (happ : FifoApart s t) (hrd : t.fifo.rd < t.cfg.fifoCapacity)
    (hrun : runCommands ((fifoLive t.cfg.fifoCapacity t.fifo).take n) s = .next u) :
    ∃ w, drainLoop n t = .next w ∧
      fifoLive w.cfg.fifoCapacity w.fifo = (fifoLive t.cfg.fifoCapacity t.fifo).drop n ∧ FifoApart u w := by
  induction n generalizing s t with
  | zero =>
    cases hrun
    exact ⟨t, rfl, rfl, happ⟩
  | succ n ih =>
    by_cases hc : t.fifo.count = 0
    · rw [fifoLive_of_empty hc] at hrun ⊢
      cases hrun
      exact ⟨t, drainLoop_of_empty hc, fifoLive_of_empty hc, happ⟩
    · rw [fifoLive_eq_cons hc hrd, List.take_succ_cons, runCommands_cons] at hrun
      obtain ⟨s1, head, others⟩ := andThen_eq_next.1 hrun
      obtain ⟨t1, head', happ1⟩ := happ.dispatch head
      have kept := (dispatch_keeps head').rest
      have params : (retireHead t1).cfg = t.cfg :=
        (congrArg State.cfg (retireHead_rest t1) :).trans (congrArg State.cfg kept :)
      have popped : (retireHead t1).fifo = fifoPop t.cfg.fifoCapacity t.fifo := by
        rw [retireHead_rest, kept]
      rw [drainLoop_succ_of_dispatch hc head', fifoLive_eq_cons hc hrd, List.drop_succ_cons, ← popped, ← params]
      refine ih happ1.retireHead ?_ ?_
      · rw [params, popped]
        exact Nat.mod_lt _ (Nat.zero_lt_of_lt hrd)
      · rwa [params, popped]

/-- Settles O17: an accepted push puts its entry behind the live ones (`FifoInv.live_of_accepted`), and a drain
takes them from the front (`drainLoop_of_runCommands`). -/
theorem fifoOrder : Obligations.FifoOrder := by
  refine ⟨fun c d s t hinv hroom accepted => hinv.live_of_accepted hroom accepted, fun s u hinv hrun => ?_⟩
  obtain ⟨t, ht, live, apart⟩ := drainLoop_of_runCommands (.refl s) hinv.rd hrun
  exact ⟨t, ht, live, apart.status, apart.regs, apart.rest⟩

end Sys2Proof.Machine

-- the theorem of `Obligations.Push` has the name of the model's function, so it stands in a namespace of its own
namespace Sys2Proof.Laws

open Machine

/-- Settles O16: a full FIFO (`fullPush_dropped`), a closed gate (`push_of_busy`), and an open one, through which
the accepted state is drained. -/
theorem push : Obligations.Push := by
  intro c d s
  refine ⟨fun hfull => ⟨_, if_pos hfull, fullPush_dropped c d s⟩, fun hroom hbusy => ?_, fun hroom hrun hdma => ?_⟩
  · obtain ⟨t, ht, accepted, -⟩ := push_of_busy c d hbusy
    exact ⟨t, ht, accepted hroom⟩
  · have isOpen : drainGateOpen (acceptPush c d s) = true :=
      (drainGateOpen_acceptPush c d s).trans (drainGateOpen_of_bits hrun hdma)
    exact ⟨_, acceptPush_accepted c d s, by rw [Machine.push, if_neg hroom, if_pos isOpen]⟩

end Sys2Proof.Laws
end

section
/-! SUPPORT. The commands of the assembler: their words, what each does to the open slot and to the polygon
buffer, and the render start. -/

namespace Sys2Proof.Machine

variable {s : State} {d : Word}

-- operands in exact arithmetic (R9, R107 to R109)

theorem fieldOver_exact {k : Nat} (raw : BitVec k) (divisor : Nat) :
    fieldOver .exact raw divisor = (raw.toNat : Rat) / divisor := rfl

section
variable {n : Numerics} {x y : BitVec 10} {z : BitVec 12}

/-- The position of CMD.VERTEX in exact arithmetic (R107). -/
theorem placeVertex_of_exact (h : n = .exact) (width height : Nat) (v : Slot) :
    (placeVertex n x y z width height v).x = (x.toNat : Rat) * width / 1024 ∧
    (placeVertex n x y z width height v).y = (y.toNat : Rat) * height / 1024 ∧
    (placeVertex n x y z width height v).z = (z.toNat : Rat) / 4096 := by
  subst h
  exact ⟨rfl, rfl, fieldOver_exact z 4096⟩

theorem texCoordOf_of_exact (h : n = .exact) (u : BitVec 12) : texCoordOf n u = (u.toNat : Rat) / 4096 := by
  subst h
  exact fieldOver_exact u 4096

theorem colorOf_of_exact (h : n = .exact) (r g b a : BitVec 8) : colorOf n r g b a =
    ⟨(r.toNat : Rat) / 255, (g.toNat : Rat) / 255, (b.toNat : Rat) / 255, (a.toNat : Rat) / 255⟩ := by
  subst h
  simp only [colorOf, componentOf, fieldOver_exact, Nat.cast_ofNat]

end

-- the open slot (R220)

/-- An update of the open slot, and of no other. -/
theorem slotAt_updateOpenSlot (f : Slot → Slot) (s : State) :
    slotAt (updateOpenSlot f s).slots s.vcount = f (slotAt s.slots s.vcount) ∧
    ∀ i, i ≠ s.vcount → slotAt (updateOpenSlot f s).slots i = slotAt s.slots i :=
  ⟨(slotAt_putSlotAt ..).trans (if_pos rfl), fun _ hi => (slotAt_putSlotAt ..).trans (if_neg hi)⟩

/-- With two vertices received the open slot is `V[2]`. -/
theorem updateOpenSlot_of_two (f : Slot → Slot) (h : s.vcount = 2) :
    updateOpenSlot f s = { s with slots := { s.slots with v2 := f s.slots.v2 } } := by
  rw [updateOpenSlot, openSlot, h]
  rfl

-- CMD.VERTEX (R211)

section
variable {x y : BitVec 10} {z : BitVec 12}

/-- The state with the position of a CMD.VERTEX in the open slot. -/
def vertexPlaced (x y : BitVec 10) (z : BitVec 12) (s : State) : State :=
  updateOpenSlot (placeVertex s.cfg.numerics x y z s.width s.height) s

theorem exec_cmdVertex_of_ne (h : s.vcount ≠ 2) :
    exec (.cmdVertex x y z) s = .next { vertexPlaced x y z s with vcount := s.vcount + 1 } := if_neg h

/-- The third vertex, with room in the polygon buffer: the polygon of the slots as they now stand is stored and
binned (R240). -/
theorem exec_cmdVertex_of_room (h : s.vcount = 2) (hroom : s.polyCount ≠ s.cfg.maxPolygons) :
    exec (.cmdVertex x y z) s = .next { vertexPlaced x y z s with
      vcount := 0
      polys := s.polys ++ [assembledPolygon (vertexPlaced x y z s)]
      tiles := appendToTiles s.polyCount
        (binTiles s.tileSize s.tilesX s.tilesY (vertexPlaced x y z s).slots) s.tiles } := by
  have third : exec (.cmdVertex x y z) s = .next { finalizePolygon (vertexPlaced x y z s) with vcount := 0 } := if_pos h
  rcases finalizePolygon_cases (vertexPlaced x y z s) with ⟨full, -⟩ | ⟨-, stored⟩
  · exact absurd full hroom
  · rw [third, stored]
    rfl

end

theorem val_succ_of_ne_two : ∀ i : Fin 3, i ≠ 2 → (i + 1).val = i.val + 1 := by decide

/-- Settles O30: the command is the update of the open slot with a position, and the count moved on. -/
theorem vertexFillsOpenSlot : Obligations.VertexFillsOpenSlot := by
  refine ⟨decode_cmdWord cmdIdVertex, fun x y z s h => ⟨_, exec_cmdVertex_of_ne h, ?_⟩⟩
  obtain ⟨placed, others⟩ := slotAt_updateOpenSlot (placeVertex s.cfg.numerics x y z s.width s.height) s
  refine ⟨val_succ_of_ne_two s.vcount h, placed, fun hexact => ?_, others, fun _ _ => rfl, fun _ _ => rfl, .refl s, rfl⟩
  have position := placeVertex_of_exact (x := x) (y := y) (z := z) hexact s.width s.height (slotAt s.slots s.vcount)
  rwa [← placed] at position

/-- Settles O31: the open slot is `V[2]`, and the polygon is that of the three slots after the placement. -/
theorem thirdVertexFinalizes : Obligations.ThirdVertexFinalizes := by
  intro x y z s h hroom
  have placed : vertexPlaced x y z s = _ := updateOpenSlot_of_two _ h
  refine ⟨_, exec_cmdVertex_of_room h hroom, ?_⟩
  rw [placed]
  exact ⟨rfl, rfl, fun hexact => placeVertex_of_exact hexact s.width s.height s.slots.v2, rfl, fun _ _ => rfl,
    fun _ _ => rfl, .refl s, rfl⟩

-- CMD.TEX.* and CMD.COLOR (R213 to R217)

theorem argWord_toNat (arg : BitVec 24) : (argWord arg).toNat = arg.toNat :=
  BitVec.toNat_setWidth_of_le (by decide)

section
variable (d)

theorem decodeTexture_addr (h : d.extractLsb' 24 8 = texSubAddr) : decodeTexture d = .cmdTexAddr (d.extractLsb' 0 24) :=
  if_pos h

theorem decodeTexture_uv (h : d.extractLsb' 24 8 = texSubUv) :
    decodeTexture d = .cmdTexUv (d.extractLsb' 12 12) (d.extractLsb' 0 12) := by
  rw [decodeTexture, h]
  rfl

theorem decodeTexture_format (h : d.extractLsb' 24 8 = texSubFormat) :
    decodeTexture d = .cmdTexFormat (d.extractLsb' 0 24) := by
  rw [decodeTexture, h]
  rfl

end

/-- Settles O35: each command is the write of one field with the operand zero-extended. -/
theorem texCommandsSetState : Obligations.TexCommandsSetState := by
  refine ⟨fun d h => (decode_textureWord d).trans (decodeTexture_addr d h),
    fun d h => (decode_textureWord d).trans (decodeTexture_format d h), fun arg s => ⟨?_, ?_⟩⟩ <;>
    exact ⟨_, rfl, argWord_toNat arg, .refl s, rfl⟩

/-- Settles O36: each command is an update of the open slot and of nothing else (`slotAt_updateOpenSlot`). -/
theorem attributesGoToOpenSlot : Obligations.AttributesGoToOpenSlot := by
  intro s
  refine ⟨fun d h => (decode_textureWord d).trans (decodeTexture_uv d h), decode_cmdWord cmdIdColor,
    fun u v => ?_, fun r g b a => ?_⟩
  · obtain ⟨mapped, others⟩ := slotAt_updateOpenSlot
      (fun w => { w with u := texCoordOf s.cfg.numerics u, v := texCoordOf s.cfg.numerics v }) s
    refine ⟨_, rfl, mapped, fun hexact => ?_, others, .refl s, rfl⟩
    rw [mapped]
    exact ⟨texCoordOf_of_exact hexact u, texCoordOf_of_exact hexact v⟩
  · obtain ⟨painted, others⟩ := slotAt_updateOpenSlot (fun w => { w with color := colorOf s.cfg.numerics r g b a }) s
    refine ⟨_, rfl, painted, fun hexact => ?_, others, .refl s, rfl⟩
    rw [painted]
    exact colorOf_of_exact hexact r g b a

/-- Settles O37: the decoder's two fallback rows, and each command is one diagnostic. -/
theorem unknownCommandsOnlyLog : Obligations.UnknownCommandsOnlyLog := by
  intro s
  refine ⟨fun d h => ?_, fun c d h => (decode_cmdWord c d).trans (decodeCmd_of_unknown d h),
    fun sub arg => ⟨_, rfl, rfl, .refl s⟩, fun c d => ⟨_, rfl, rfl, .refl s⟩⟩
  have unknown := decodeTexture_of_unknown (d.extractLsb' 0 24) h
  rw [texPayload_fields] at unknown
  exact (decode_textureWord d).trans unknown

-- CMD.RENDER_START (R218, R255)

theorem renderScene_of_walk {c : Canvas} (h : renderTiles (viewOf s) s.polys s.tiles ⟨[], fbMemory s⟩ = some c) :
    renderScene s = .next (finishFrame c s) := by
  rw [renderScene, h]

/-- The command ends in the state `renderDone` of the canvas that the walk over the tiles leaves. -/
theorem exec_cmdRenderStart_of_walk {c : Canvas}
    (h : renderTiles (viewOf s) s.polys s.tiles ⟨[], fbMemory s⟩ = some c) :
    exec (.cmdRenderStart d) s = .next (renderDone c s) := by
  have run : exec (.cmdRenderStart d) s = execCmdRenderStart d s := rfl
  rw [run, execCmdRenderStart, renderScene_of_walk h]
  rfl

theorem renderDone_rest (c : Canvas) (s : State) : renderDone c s = { s with
    regs := (renderDone c s).regs, polys := [], tiles := (renderDone c s).tiles, zbuf := (renderDone c s).zbuf
    zfill := .cleared, timerArmed := true, hostMem := (renderDone c s).hostMem, vram := (renderDone c s).vram
    out := .timerArm s.cfg.timerLatencyUs :: .frameChanged :: s.out } := by
  unfold renderDone finishFrame setFbMemory
  cases s.fb.store <;> rfl

/-- Settles O38: the state is `renderDone`; what it keeps of registers and flags is what every command keeps,
and its bytes are those of the scene (`renderScene_bytes`). -/
theorem renderStart : Obligations.RenderStart := by
  refine fun d s => ⟨decode_cmdWord cmdIdRenderStart d, fun hfb => ?_⟩
  obtain ⟨c, walk, run⟩ := dispatch_renderStart hfb d
  obtain ⟨busy, running⟩ := renderDone_flags (s := s) (c := c)
  have kept := dispatch_keeps run
  have bytes := renderScene_bytes (renderScene_of_walk walk)
  refine ⟨_, run, rfl, rfl, rfl, busy, running, fun i hi => ?_, fun q hq => ?_, bytes, renderDone_rest c s⟩
  · simp only [List.mem_cons, List.not_mem_nil, or_false, not_or] at hi
    obtain ⟨hbusy, hrunning⟩ := hi
    exact kept.status i hbusy hrunning
  · exact kept.regs q (by simpa using hq)

theorem setFbMemory_fbMemory (s : State) : setFbMemory (fbMemory s) s = s := by
  unfold setFbMemory fbMemory
  cases s.fb.store <;> rfl

/-- A frame in which no pixel was stored leaves both memories as they were. -/
theorem renderDone_memories_of_unwritten (z : Cells 16) (s : State) :
    (renderDone ⟨z, fbMemory s⟩ s).vram = s.vram ∧ (renderDone ⟨z, fbMemory s⟩ s).hostMem = s.hostMem :=
  ⟨(congrArg State.vram (setFbMemory_fbMemory s) :), (congrArg State.hostMem (setFbMemory_fbMemory s) :)⟩

/-- Settles O39: the walk over empty lists leaves the cleared ZBUF and FB's own memory (`renderTiles_empty`). -/
theorem emptySceneChangesNoByte : Obligations.EmptySceneChangesNoByte := by
  intro d s hempty
  have depths := zSample_finishFrame (s := s) ⟨[], fbMemory s⟩
  obtain ⟨vram, host⟩ := renderDone_memories_of_unwritten [] s
  exact ⟨_, exec_cmdRenderStart_of_walk (renderTiles_empty hempty), depths, fun a => congrArg (memRead · a) vram,
    fun a => congrArg (memRead · a) host, rfl, renderDone_flags.2⟩

end Sys2Proof.Machine
end

section
/-! SUPPORT. The tile binner: the polygon that is dropped, the z-sort key in each rounding mode, and the tiles that
take a new polygon. -/

namespace Sys2Proof.Machine

variable {x y : BitVec 10} {z : BitVec 12} {s : State}

-- the full polygon buffer (R246)

/-- The third vertex, with the polygon buffer full: the position stays in the open slot, the polygon is logged. -/
theorem exec_cmdVertex_of_full (h : s.vcount = 2) (hfull : s.polyCount = s.cfg.maxPolygons) :
    exec (.cmdVertex x y z) s = .next { diag .polyOverflow (vertexPlaced x y z s) with vcount := 0 } := by
  have third : exec (.cmdVertex x y z) s = .next { finalizePolygon (vertexPlaced x y z s) with vcount := 0 } := if_pos h
  rcases finalizePolygon_cases (vertexPlaced x y z s) with ⟨-, dropped⟩ | ⟨room, -⟩
  · rw [third, dropped]
  · exact absurd hfull room

/-- Settles O32: the open slot is `V[2]`, and finalize drops the polygon. -/
theorem polygonOverflow : Obligations.PolygonOverflow := by
  intro x y z s h hfull
  have placed : vertexPlaced x y z s = _ := updateOpenSlot_of_two _ h
  refine ⟨_, exec_cmdVertex_of_full h hfull, ?_⟩
  rw [placed]
  exact ⟨rfl, fun hexact => placeVertex_of_exact hexact s.width s.height s.slots.v2, fun _ _ => rfl,
    fun _ _ => rfl, .refl s, rfl⟩

-- the z-sort key (R241)

theorem floor_div4096 (k : Int) : ((k : Rat) / 4096).floor = k / 4096 :=
  Rat.floor_intCast_div_natCast k 4096

theorem ceil_div4096 (k : Int) : ((k : Rat) / 4096).ceil = (k + 4095) / 4096 := by
  rw [Rat.ceil_eq_neg_floor_neg, ← neg_div, ← Int.cast_neg, floor_div4096]
  omega

theorem roundOver4096_halfUp (k : Nat) : (roundOver4096 .halfUp k : Int) = ((k : Rat) / 4096 + 1 / 2).floor := by
  have shifted : (k : Rat) / 4096 + 1 / 2 = ((k + 2048 : Int) : Rat) / 4096 := by push_cast; ring
  rw [shifted, floor_div4096]
  rfl

theorem roundOver4096_halfDown (k : Nat) : (roundOver4096 .halfDown k : Int) = ((k : Rat) / 4096 - 1 / 2).ceil := by
  have shifted : (k : Rat) / 4096 - 1 / 2 = ((k - 2048 : Int) : Rat) / 4096 := by push_cast; ring
  rw [shifted, ceil_div4096, roundOver4096]
  omega

theorem roundOver4096_down (k : Nat) : (roundOver4096 .down k : Int) = ((k : Rat) / 4096).floor :=
  (floor_div4096 k).symm

/-- Half even, in whole 4096ths: at most 2048 away, and even where exactly 2048 away. -/
theorem natAbs_roundOver4096_halfEven (k : Nat) :
    (4096 * (roundOver4096 .halfEven k : Int) - k).natAbs ≤ 2048 ∧
    ((4096 * (roundOver4096 .halfEven k : Int) - k).natAbs = 2048 → roundOver4096 .halfEven k % 2 = 0) := by
  by_cases tie : k % 4096 = 2048
  · have toEven : roundOver4096 .halfEven k = k / 4096 + k / 4096 % 2 := if_pos tie
    omega
  · have nearest : roundOver4096 .halfEven k = (k + 2048) / 4096 := if_neg tie
    omega

theorem abs_sub_div4096 (m k : Nat) :
    |(m : Rat) - (k : Rat) / 4096| = ((4096 * (m : Int) - k).natAbs : Rat) / 4096 := by
  have scaled : (m : Rat) - (k : Rat) / 4096 = ((4096 * (m : Int) - k : Int) : Rat) / 4096 := by push_cast; ring
  rw [scaled, abs_div, Nat.cast_natAbs, Int.cast_abs, abs_of_pos (by norm_num : (0 : Rat) < 4096)]

theorem roundOver4096_halfEven (k : Nat) :
    |(roundOver4096 .halfEven k : Rat) - (k : Rat) / 4096| ≤ 1 / 2 ∧
    (|(roundOver4096 .halfEven k : Rat) - (k : Rat) / 4096| = 1 / 2 → roundOver4096 .halfEven k % 2 = 0) := by
  obtain ⟨near, even⟩ := natAbs_roundOver4096_halfEven k
  have half : (1 / 2 : Rat) = ((2048 : Nat) : Rat) / 4096 := by norm_num
  rw [abs_sub_div4096, half, div_le_div_iff_of_pos_right (by norm_num), div_left_inj' (by norm_num), Nat.cast_le,
    Nat.cast_inj]
  exact ⟨near, even⟩

/-- The depths of R107 in exact arithmetic have the common denominator 4096. -/
theorem depthSum_exact (a b c : BitVec 12) :
    (depthOf .exact a + depthOf .exact b + depthOf .exact c) * 1365 =
      (((a.toNat + b.toNat + c.toNat) * zkeyScale : Nat) : Rat) / 4096 := by
  simp only [depthOf, fieldOver_exact, zkeyScale]
  push_cast
  ring

/-- Settles O34: the key is `roundOver4096` of the scaled sum, which each mode rounds as it says. -/
theorem zkeyRounds : Obligations.ZkeyRounds := by
  refine ⟨rfl, fun a b c => ?_⟩
  simp only [depthSum_exact]
  exact ⟨roundOver4096_halfUp _, roundOver4096_halfDown _, roundOver4096_down _, roundOver4096_halfEven _,
    fun mode => zkey_le mode a b c⟩

-- the tiles of a polygon (R242 to R244)

theorem nodup_natSpan (lo hi : Nat) : (natSpan lo hi).Nodup :=
  List.nodup_range.map fun _ _ => Nat.add_left_cancel

theorem tileIndex_cast (q : Rat) (ts tiles : Nat) :
    (tileIndex q ts tiles : Int) = max 0 (min ((tiles : Int) - 1) (q.floor / (ts : Int))) :=
  Int.toNat_of_nonneg (le_max_left ..)

/-- A tile number names one row and one column. -/
theorem tileNumber_inj {n i j i' j' : Nat} (hi : i < n) (hi' : i' < n) :
    j * n + i = j' * n + i' ↔ j = j' ∧ i = i' := by
  constructor
  · intro h
    have row := congrArg (· / n) h
    have column := congrArg (· % n) h
    simp only [Nat.mul_comm _ n, Nat.mul_add_div (Nat.zero_lt_of_lt hi), Nat.mul_add_mod, Nat.div_eq_of_lt hi,
      Nat.div_eq_of_lt hi', Nat.mod_eq_of_lt hi, Nat.mod_eq_of_lt hi'] at row column
    exact ⟨row, column⟩
  · rintro ⟨rfl, rfl⟩
    rfl

/-- The tile numbers of the columns `x0..x1` in the rows `y0..y1` of a grid with rows of n tiles, row by row. -/
def tileRectangle (n x0 x1 y0 y1 : Nat) : List Nat :=
  (natSpan y0 y1).flatMap fun ty => (natSpan x0 x1).map fun tx => ty * n + tx

section
variable {n x0 x1 y0 y1 i j : Nat}

theorem mem_tileRectangle (hx1 : x1 < n) (hi : i < n) :
    j * n + i ∈ tileRectangle n x0 x1 y0 y1 ↔ x0 ≤ i ∧ i ≤ x1 ∧ y0 ≤ j ∧ j ≤ y1 := by
  simp only [tileRectangle, List.mem_flatMap, List.mem_map, mem_natSpan]
  constructor
  · rintro ⟨ty, row, tx, ⟨hlo, hhi⟩, same⟩
    obtain ⟨rfl, rfl⟩ := (tileNumber_inj (hhi.trans_lt hx1) hi).1 same
    exact ⟨hlo, hhi, row⟩
  · rintro ⟨hlo, hhi, row⟩
    exact ⟨j, row, i, ⟨hlo, hhi⟩, rfl⟩

/-- No tile stands twice in a rectangle inside the grid: tiles of one row differ in their columns, and two rows
share no number. -/
theorem nodup_tileRectangle (hx1 : x1 < n) : (tileRectangle n x0 x1 y0 y1).Nodup := by
  refine List.nodup_flatMap.2 ⟨fun _ _ => (nodup_natSpan x0 x1).map fun _ _ => Nat.add_left_cancel, ?_⟩
  have inRow : ∀ {tx}, tx ∈ natSpan x0 x1 → tx < n := fun h => (mem_natSpan.1 h).2.trans_lt hx1
  refine (nodup_natSpan y0 y1).imp fun hne number hleft hright => ?_
  obtain ⟨tx, htx, rfl⟩ := List.mem_map.1 hleft
  obtain ⟨tx', htx', same⟩ := List.mem_map.1 hright
  exact hne ((tileNumber_inj (inRow htx') (inRow htx)).1 same).1.symm

end

section
variable {ts tilesX tilesY : Nat} {v : Slots}

theorem binTiles_of_empty (h : tilesX = 0 ∨ tilesY = 0) : binTiles ts tilesX tilesY v = [] := if_pos h

theorem binTiles_of_nonempty (h : ¬(tilesX = 0 ∨ tilesY = 0)) : binTiles ts tilesX tilesY v =
    tileRectangle tilesX
      (tileIndex (min3 v.v0.x v.v1.x v.v2.x) ts tilesX) (tileIndex (max3 v.v0.x v.v1.x v.v2.x) ts tilesX)
      (tileIndex (min3 v.v0.y v.v1.y v.v2.y) ts tilesY) (tileIndex (max3 v.v0.y v.v1.y v.v2.y) ts tilesY) :=
  if_neg h

theorem nodup_binTiles : (binTiles ts tilesX tilesY v).Nodup := by
  by_cases h : tilesX = 0 ∨ tilesY = 0
  · simp only [binTiles_of_empty h, List.nodup_nil]
  · rw [binTiles_of_nonempty h]
    exact nodup_tileRectangle (tileIndex_lt (by omega))

/-- The tiles of a polygon, by column and row (R243, R244). -/
theorem mem_binTiles {i j : Nat} (hi : i < tilesX) (hj : j < tilesY) :
    j * tilesX + i ∈ binTiles ts tilesX tilesY v ↔
      tileIndex (min3 v.v0.x v.v1.x v.v2.x) ts tilesX ≤ i ∧ i ≤ tileIndex (max3 v.v0.x v.v1.x v.v2.x) ts tilesX ∧
      tileIndex (min3 v.v0.y v.v1.y v.v2.y) ts tilesY ≤ j ∧ j ≤ tileIndex (max3 v.v0.y v.v1.y v.v2.y) ts tilesY := by
  rw [binTiles_of_nonempty (by omega)]
  exact mem_tileRectangle (tileIndex_lt (Nat.zero_lt_of_lt hi)) hi

end

/-- A tile after appends that name no tile twice: the polygon once at the end of its list, or no change. -/
theorem getElem?_appendToTiles_of_nodup {p i : Nat} {ts : List Nat} {tiles : List Tile} {tile : Tile}
    (hts : ts.Nodup) (htile : tiles[i]? = some tile) : (appendToTiles p ts tiles)[i]? =
      some { tile with list := tile.list ++ if i ∈ ts then [p] else [] } := by
  rw [getElem?_appendToTiles, htile, hts.count]
  by_cases h : i ∈ ts <;> simp [h]

/-- Settles O33: the binner names the tiles of the rectangle (`mem_binTiles`), none of them twice
(`nodup_binTiles`), and each tile it names takes the polygon. -/
theorem binning : Obligations.Binning := by
  intro x y z s t h hroom run
  cases (exec_cmdVertex_of_room h hroom).symm.trans run
  refine ⟨length_appendToTiles .., fun hempty => ?_, fun i j hi hj tile htile => ?_⟩
  · simp only [binTiles_of_empty hempty, appendToTiles]
  · simp only [getElem?_appendToTiles_of_nodup nodup_binTiles htile, mem_binTiles hi hj, min3, max3,
      ← tileIndex_cast, Nat.cast_le]

end Sys2Proof.Machine
end

section
/-! SUPPORT. The depth sort is the library's insertion sort, so it is a stable one. -/

namespace Sys2Proof.Machine

variable (key : Nat → Nat)

/-- The order of the depth sort: `p` may stand before `q`. -/
abbrev NotAbove (p q : Nat) : Prop := key q ≤ key p

theorem notAbove_total : Std.Total (NotAbove key) := ⟨fun p q => Nat.le_total (key q) (key p)⟩

theorem notAbove_trans : IsTrans Nat (NotAbove key) := ⟨fun _ _ _ hpq hqr => hqr.trans hpq⟩

theorem insertDesc_eq_orderedInsert (p : Nat) (l : List Nat) :
    insertDesc key p l = l.orderedInsert (NotAbove key) p := by
  induction l with
  | nil => rfl
  | cons q l ih => rw [insertDesc, ih, List.orderedInsert_cons]

theorem sortDescending_eq_insertionSort (l : List Nat) :
    sortDescending key l = l.insertionSort (NotAbove key) := by
  induction l with
  | nil => rfl
  | cons p l ih => rw [sortDescending, ih, insertDesc_eq_orderedInsert, List.insertionSort_cons]

theorem sortDescending_perm (l : List Nat) : (sortDescending key l).Perm l := by
  rw [sortDescending_eq_insertionSort]
  exact List.perm_insertionSort (NotAbove key) l

theorem pairwise_sortDescending (l : List Nat) : (sortDescending key l).Pairwise (NotAbove key) := by
  have total := notAbove_total key
  have trans := notAbove_trans key
  rw [sortDescending_eq_insertionSort]
  exact List.pairwise_insertionSort (NotAbove key) l

/-- The references of one key are a sorted part of the list, which an insertion sort leaves in its order. -/
theorem filter_sortDescending (k : Nat) (l : List Nat) :
    (sortDescending key l).filter (fun p => key p == k) = l.filter (fun p => key p == k) := by
  have total := notAbove_total key
  have trans := notAbove_trans key
  have sameKey : ∀ p ∈ l.filter (fun p => key p == k), key p = k := fun p hp => by simpa using List.of_mem_filter hp
  have sorted : (l.filter (fun p => key p == k)).Pairwise (NotAbove key) :=
    List.pairwise_of_forall_mem_list fun p hp q hq => ((sameKey q hq).trans (sameKey p hp).symm).le
  have kept : (l.filter (fun p => key p == k)).Sublist (sortDescending key l) := by
    rw [sortDescending_eq_insertionSort]
    exact List.sublist_insertionSort sorted List.filter_sublist
  have within : (l.filter (fun p => key p == k)).Sublist ((sortDescending key l).filter (fun p => key p == k)) := by
    simpa using kept.filter (fun p => key p == k)
  exact (within.eq_of_length ((sortDescending_perm key l).filter _).length_eq.symm).symm

/-- Settles O40: the sort is `List.insertionSort`, whose stability keeps the references of one key in order. -/
theorem sortIsDescendingAndStable : Obligations.SortIsDescendingAndStable := fun key l =>
  ⟨sortDescending_perm key l, pairwise_sortDescending key l, fun k => filter_sortDescending key k l⟩

end Sys2Proof.Machine
end

section
/-! SUPPORT. A triangle in exact arithmetic: the weights of a point, and what is interpolated with the weights of a
covered pixel lies between the values at the vertices. -/

namespace Sys2Proof.Machine

-- areas and edge functions in exact arithmetic (R259, R262, R264)

theorem cullArea_exact (v : Slots) : cullArea .exact v =
    (v.v1.x - v.v0.x) * (v.v2.y - v.v0.y) - (v.v1.y - v.v0.y) * (v.v2.x - v.v0.x) := rfl

theorem rasterArea_exact (v : Slots) : rasterArea .exact v =
    (v.v2.x - v.v0.x) * (v.v1.y - v.v0.y) - (v.v2.y - v.v0.y) * (v.v1.x - v.v0.x) := rfl

theorem edgeFn_exact (a b : Slot) (sx sy : Rat) : edgeFn .exact a b sx sy =
    (sx - a.x) * (b.y - a.y) - (sy - a.y) * (b.x - a.x) := rfl

theorem cullArea_eq_neg_rasterArea (v : Slots) : cullArea .exact v = - rasterArea .exact v := by
  rw [cullArea_exact, rasterArea_exact]
  ring

section
variable (a b : Slot) (sx sy : Rat)

theorem edgeFn_swap : edgeFn .exact b a sx sy = - edgeFn .exact a b sx sy := by
  simp only [edgeFn_exact]
  ring

@[simp] theorem edgeFn_start : edgeFn .exact a b a.x a.y = 0 := by
  rw [edgeFn_exact]
  ring

@[simp] theorem edgeFn_end : edgeFn .exact a b b.x b.y = 0 := by
  rw [edgeFn_exact]
  ring

end

section
variable (v : Slots) (sx sy : Rat)

/-- The edge function of each edge at the opposite vertex is the raster area. -/
theorem edgeFn_opposite : edgeFn .exact v.v1 v.v2 v.v0.x v.v0.y = rasterArea .exact v ∧
    edgeFn .exact v.v2 v.v0 v.v1.x v.v1.y = rasterArea .exact v ∧
    edgeFn .exact v.v0 v.v1 v.v2.x v.v2.y = rasterArea .exact v := by
  refine ⟨?_, ?_, rfl⟩ <;> simp only [edgeFn_exact, rasterArea_exact] <;> ring

theorem rasterArea_swap : rasterArea .exact ⟨v.v0, v.v2, v.v1⟩ = - rasterArea .exact v := by
  simp only [rasterArea_exact]
  ring

-- the weights of a point

/-- The weights of the point (sx, sy) in exact arithmetic (R264). -/
def pointWeights : Weights :=
  ⟨edgeFn .exact v.v1 v.v2 sx sy / rasterArea .exact v, edgeFn .exact v.v2 v.v0 sx sy / rasterArea .exact v,
    edgeFn .exact v.v0 v.v1 sx sy / rasterArea .exact v⟩

/-- The weights of a pixel are those of its sample point (R263). -/
theorem weightsAt_of_exact {view : View} (h : view.cfg.numerics = .exact) (px py : Nat) :
    weightsAt view v px py = pointWeights v (px + view.cfg.sampleOffset) (py + view.cfg.sampleOffset) := by
  have num : view.num = .exact := h
  rw [weightsAt, num]
  rfl

section
variable {v} (h : rasterArea .exact v ≠ 0)
include h

theorem pointWeights_sum : (pointWeights v sx sy).w0 + (pointWeights v sx sy).w1 + (pointWeights v sx sy).w2 = 1 := by
  simp only [pointWeights, ← add_div, div_eq_one_iff_eq h]
  simp only [edgeFn_exact, rasterArea_exact]
  ring

/-- The weights give the point back from the vertices. -/
theorem pointWeights_interpolate : (pointWeights v sx sy).w0 * v.v0.x + (pointWeights v sx sy).w1 * v.v1.x +
      (pointWeights v sx sy).w2 * v.v2.x = sx ∧
    (pointWeights v sx sy).w0 * v.v0.y + (pointWeights v sx sy).w1 * v.v1.y +
      (pointWeights v sx sy).w2 * v.v2.y = sy := by
  simp only [pointWeights, div_mul_eq_mul_div, ← add_div, div_eq_iff h]
  simp only [edgeFn_exact, rasterArea_exact]
  constructor <;> ring

/-- At a vertex its own weight is 1 and the others are 0. -/
theorem pointWeights_vertex : pointWeights v v.v0.x v.v0.y = ⟨1, 0, 0⟩ ∧
    pointWeights v v.v1.x v.v1.y = ⟨0, 1, 0⟩ ∧ pointWeights v v.v2.x v.v2.y = ⟨0, 0, 1⟩ := by
  simp only [pointWeights, edgeFn_opposite, edgeFn_start, edgeFn_end, div_self h, zero_div, and_self]

end

/-- The other winding changes the sign of every edge function and of the area, so of no weight. -/
theorem pointWeights_swap : pointWeights ⟨v.v0, v.v2, v.v1⟩ sx sy =
    ⟨(pointWeights v sx sy).w0, (pointWeights v sx sy).w2, (pointWeights v sx sy).w1⟩ := by
  simp only [pointWeights, rasterArea_swap, edgeFn_swap v.v1 v.v2, edgeFn_swap v.v0 v.v1, edgeFn_swap v.v2 v.v0,
    neg_div_neg_eq]

end

theorem covered_iff {w : Weights} : covered w = true ↔ 0 ≤ w.w0 ∧ 0 ≤ w.w1 ∧ 0 ≤ w.w2 := by
  simp only [covered, Bool.and_eq_true, decide_eq_true_eq, and_assoc]

theorem covered_swap (a b c : Rat) : covered ⟨a, c, b⟩ = covered ⟨a, b, c⟩ := Bool.and_right_comm ..

/-- Settles O42: the weights of a pixel are those of its sample point (`weightsAt_of_exact`), and each clause is a
fact about the weights of a point. -/
theorem weightsInterpolate : Obligations.WeightsInterpolate := by
  refine ⟨rfl, fun view v hexact harea => ?_⟩
  simp only [weightsAt_of_exact _ hexact]
  obtain ⟨vertex0, vertex1, vertex2⟩ := pointWeights_vertex harea
  obtain ⟨opposite0, opposite1, opposite2⟩ := edgeFn_opposite v
  refine ⟨fun px py => ⟨pointWeights_sum _ _ harea, pointWeights_interpolate _ _ harea⟩,
    fun px py => ⟨fun hx hy => ?_, fun hx hy => ?_, fun hx hy => ?_⟩, fun px py => pointWeights_swap ..,
    fun px py => ?_, ?_, ?_, ?_, cullArea_eq_neg_rasterArea v⟩
  · rw [hx, hy, vertex0]
  · rw [hx, hy, vertex1]
  · rw [hx, hy, vertex2]
  · rw [pointWeights_swap, covered_swap]
  · rw [opposite0, div_self harea]
  · rw [opposite1, div_self harea]
  · rw [opposite2, div_self harea]

-- interpolation at a covered pixel

/-- Weights of a point of the triangle: none is negative, and their sum is 1. -/
structure Weights.Convex (w : Weights) : Prop where
  w0 : 0 ≤ w.w0
  w1 : 0 ≤ w.w1
  w2 : 0 ≤ w.w2
  sum : w.w0 + w.w1 + w.w2 = 1

theorem convex_of_covered {view : View} {v : Slots} {px py : Nat} (hexact : view.cfg.numerics = .exact)
    (harea : rasterArea .exact v ≠ 0) (hcov : covered (weightsAt view v px py) = true) :
    (weightsAt view v px py).Convex := by
  obtain ⟨h0, h1, h2⟩ := covered_iff.1 hcov
  exact ⟨h0, h1, h2, by rw [weightsAt_of_exact _ hexact]; exact pointWeights_sum _ _ harea⟩

theorem blend3_exact (w : Weights) (a b c : Rat) : blend3 .exact w a b c = w.w0 * a + w.w1 * b + w.w2 * c := rfl

theorem blend3_const {w : Weights} (hw : w.Convex) (q : Rat) : blend3 .exact w q q q = q := by
  rw [blend3_exact, ← add_mul, ← add_mul, hw.sum, one_mul]

theorem blend3_mono {w : Weights} (hw : w.Convex) {a b c a' b' c' : Rat} (ha : a ≤ a') (hb : b ≤ b')
    (hc : c ≤ c') : blend3 .exact w a b c ≤ blend3 .exact w a' b' c' := by
  obtain ⟨h0, h1, h2, -⟩ := hw
  simp only [blend3_exact]
  gcongr

/-- A weighted mean lies where its three values lie. -/
theorem blend3_mem {w : Weights} (hw : w.Convex) {lo hi a b c : Rat} (ha : a ∈ Set.Icc lo hi)
    (hb : b ∈ Set.Icc lo hi) (hc : c ∈ Set.Icc lo hi) : blend3 .exact w a b c ∈ Set.Icc lo hi :=
  ⟨(blend3_const hw lo).ge.trans (blend3_mono hw ha.1 hb.1 hc.1),
    (blend3_mono hw ha.2 hb.2 hc.2).trans (blend3_const hw hi).le⟩

-- integers stored in a field (R266, R269)

/-- A number that lies in the range of its field is stored rounded down. -/
theorem narrow_floor_toNat (n : Numerics) {width : Nat} {q : Rat} (h0 : 0 ≤ q) (h1 : q < 2 ^ width) :
    ((narrow n width q.floor).toNat : Int) = q.floor :=
  narrow_toNat n (Rat.le_floor_iff.2 (by exact_mod_cast h0)) (Rat.floor_lt_iff.2 (by exact_mod_cast h1))

/-- Depths in the range of R23 are those of a 12-bit field over 4096. -/
theorem SlotOk.z_mem {v : Slot} (h : SlotOk .exact v) : v.z ∈ Set.Icc (0 : Rat) (4095 / 4096) := by
  rcases h.z with hz | ⟨hz, -⟩
  · have hraw : (v.zraw.toNat : Rat) ≤ 4095 := by exact_mod_cast Nat.le_of_lt_succ v.zraw.isLt
    rw [hz, depthOf, fieldOver_exact, Nat.cast_ofNat]
    exact ⟨by positivity, by gcongr⟩
  · rw [hz]
    norm_num

/-- The greatest depth times 65535 is below 65520. -/
theorem floor_depth_lt {q : Rat} (h : q ≤ 4095 / 4096) : (q * 65535).floor < 65520 :=
  Rat.floor_lt_iff.2 (by push_cast; linarith)

/-- Settles O43: the interpolated depth lies between 0 and 4095/4096, as the three depths do (`blend3_mem`), so its
floor over 65535 fits the field. -/
theorem depthOfCoveredPixel : Obligations.DepthOfCoveredPixel := by
  intro view v px py hexact hok harea hcov
  obtain ⟨hlo, hhi⟩ := blend3_mem (convex_of_covered hexact harea hcov) hok.v0.z_mem hok.v1.z_mem hok.v2.z_mem
  have stored : ((depth16 .exact v (weightsAt view v px py)).toNat : Int) = _ :=
    narrow_floor_toNat .exact (mul_nonneg hlo (by norm_num : (0 : Rat) ≤ 65535))
      ((mul_le_mul_of_nonneg_right hhi (by norm_num)).trans_lt (by norm_num))
  have below := stored.trans_lt (floor_depth_lt hhi)
  exact ⟨stored, by omega⟩

-- shading (R267, R268)

section
variable {view : View} {p : Polygon}

theorem shade_flat (w : Weights) (ht : polyFlag view p bitTextured = false) (hg : polyFlag view p bitGouraud = false) :
    shade view p w = p.v.v0.color := by
  simp [shade, ht, hg]

theorem shade_textured (w : Weights) (ht : polyFlag view p bitTextured = true)
    (hg : polyFlag view p bitGouraud = false) : shade view p w = view.cfg.texPlaceholder := by
  simp [shade, ht, hg]

theorem shade_gouraud (w : Weights) (ht : polyFlag view p bitTextured = false)
    (hg : polyFlag view p bitGouraud = true) : shade view p w = interpolate view.num p.v w := by
  simp [shade, ht, hg]

theorem shade_modulated (w : Weights) (ht : polyFlag view p bitTextured = true)
    (hg : polyFlag view p bitGouraud = true) :
    shade view p w = modulate view.num view.cfg.texPlaceholder (interpolate view.num p.v w) := by
  simp [shade, ht, hg]

end

theorem mul_mem_unit {a b : Rat} (ha : a ∈ Set.Icc (0 : Rat) 1) (hb : b ∈ Set.Icc (0 : Rat) 1) :
    a * b ∈ Set.Icc (0 : Rat) 1 := ⟨mul_nonneg ha.1 hb.1, mul_le_one₀ ha.2 hb.1 hb.2⟩

theorem inUnit_iff {c : Rgba} : c.inUnit = true ↔ c.r ∈ Set.Icc (0 : Rat) 1 ∧ c.g ∈ Set.Icc (0 : Rat) 1 ∧
    c.b ∈ Set.Icc (0 : Rat) 1 ∧ c.a ∈ Set.Icc (0 : Rat) 1 := by
  simp only [Rgba.inUnit, decide_eq_true_eq, Set.mem_Icc, and_assoc]

theorem interpolate_inUnit {w : Weights} {v : Slots} (hw : w.Convex) (h0 : v.v0.color.inUnit = true)
    (h1 : v.v1.color.inUnit = true) (h2 : v.v2.color.inUnit = true) : (interpolate .exact v w).inUnit = true := by
  obtain ⟨r0, g0, b0, a0⟩ := inUnit_iff.1 h0
  obtain ⟨r1, g1, b1, a1⟩ := inUnit_iff.1 h1
  obtain ⟨r2, g2, b2, a2⟩ := inUnit_iff.1 h2
  exact inUnit_iff.2 ⟨blend3_mem hw r0 r1 r2, blend3_mem hw g0 g1 g2,
    blend3_mem hw b0 b1 b2, blend3_mem hw a0 a1 a2⟩

theorem modulate_inUnit {c i : Rgba} (hc : c.inUnit = true) (hi : i.inUnit = true) :
    (modulate .exact c i).inUnit = true := by
  obtain ⟨cr, cg, cb, ca⟩ := inUnit_iff.1 hc
  obtain ⟨ir, ig, ib, ia⟩ := inUnit_iff.1 hi
  exact inUnit_iff.2 ⟨mul_mem_unit cr ir, mul_mem_unit cg ig, mul_mem_unit cb ib, mul_mem_unit ca ia⟩

/-- In each of the four modes the colour of a covered pixel is in range (R268). -/
theorem shade_inUnit {view : View} {p : Polygon} {w : Weights} (hexact : view.cfg.numerics = .exact)
    (hok : SlotsOk .exact p.v) (hc : view.cfg.texPlaceholder.inUnit = true) (hw : w.Convex) :
    (shade view p w).inUnit = true := by
  have mixed : (interpolate view.num p.v w).inUnit = true := by
    rw [View.num, hexact]
    exact interpolate_inUnit hw (hok.v0.color rfl) (hok.v1.color rfl) (hok.v2.color rfl)
  cases ht : polyFlag view p bitTextured <;> cases hg : polyFlag view p bitGouraud
  · rw [shade_flat w ht hg]
    exact hok.v0.color rfl
  · rw [shade_gouraud w ht hg]
    exact mixed
  · rw [shade_textured w ht hg]
    exact hc
  · rw [shade_modulated w ht hg, View.num, hexact] at *
    exact modulate_inUnit hc mixed

/-- Settles O45: one equation of `shade` per mode, and its range (`shade_inUnit`). -/
theorem shadeInUnit : Obligations.ShadeInUnit := by
  intro view p
  refine ⟨shade_flat, shade_textured, fun hexact w => ⟨fun ht hg => ?_, fun ht hg => ?_⟩, ?_⟩
  · rw [shade_gouraud w ht hg, View.num, hexact]
    rfl
  · rw [shade_modulated w ht hg, View.num, hexact]
    rfl
  · exact fun hexact hok harea hc px py hcov => shade_inUnit hexact hok hc (convex_of_covered hexact harea hcov)

-- bytes of components (R269)

theorem byteOf_exact {q : Rat} (h0 : 0 ≤ q) (h1 : q ≤ 1) : ((byteOf .exact q).toNat : Int) = (q * 255).floor :=
  narrow_floor_toNat .exact (mul_nonneg h0 (by norm_num)) (show q * 255 < 2 ^ 8 by linarith)

/-- Settles O46: a component in range fits its byte, and k/255 times 255 is the integer k. -/
theorem byteConversion : Obligations.ByteConversion := by
  refine ⟨fun q => byteOf_exact, fun k => ?_⟩
  obtain ⟨h0, h1⟩ := componentOf_exact_mem k
  have scaled : componentOf .exact k * 255 = ((k.toNat : Int) : Rat) := by
    rw [componentOf, fieldOver_exact]
    push_cast
    ring
  have stored := byteOf_exact h0 h1
  rw [scaled, Rat.floor_intCast] at stored
  exact BitVec.eq_of_toNat_eq (by exact_mod_cast stored)

end Sys2Proof.Machine
end

section
/-! SUPPORT. What one pixel writes: the depth test and the bytes of each format. -/

namespace Sys2Proof.Machine

section
variable {view : View} {p : Polygon} {w : Weights} {px py : Nat} {z z' : Cells 16}

/-- The depth test rejects (R266). -/
theorem depthPassAndWrite_eq_none : depthPassAndWrite view p w px py z = none ↔
    polyFlag view p bitZtest = true ∧ cellsRead depthClear z (py * view.width + px) < depth16 view.num p.v w := by
  simp [depthPassAndWrite]

/-- The samples after a depth test that passes (R266). -/
theorem cellsRead_depthPassAndWrite (h : depthPassAndWrite view p w px py z = some z') (k : Nat) :
    cellsRead depthClear z' k =
      if k = py * view.width + px then depth16 view.num p.v w else cellsRead depthClear z k := by
  rw [depthPassAndWrite_cases h, cellsRead_write]
  simp only [eq_comm]

end

/-- Settles O44: the two answers of `depthPassAndWrite`. -/
theorem depthTest : Obligations.DepthTest := fun _ _ _ _ _ _ =>
  ⟨depthPassAndWrite_eq_none, fun _ h => cellsRead_depthPassAndWrite h⟩

section
variable (n : Numerics) (c : Rgba)

theorem append_toNat {i k : Nat} (x : BitVec i) (y : BitVec k) : (x ++ y).toNat = x.toNat * 2 ^ k + y.toNat := by
  rw [BitVec.toNat_append, ← Nat.shiftLeft_add_eq_or_of_lt y.isLt, Nat.shiftLeft_eq]

/-- The top `k` bits of a byte. -/
theorem topBits_toNat (x : Byte) {i k : Nat} (h : i + k = 8) : (x.extractLsb' i k).toNat = x.toNat / 2 ^ i := by
  rw [BitVec.extractLsb'_toNat, Nat.shiftRight_eq_div_pow, Nat.mod_eq_of_lt]
  rw [Nat.div_lt_iff_lt_mul (Nat.two_pow_pos i), ← Nat.pow_add, Nat.add_comm, h]
  exact x.isLt

theorem rgb565_toNat : (rgb565 n c).toNat =
    (byteOf n c.r).toNat / 8 * 2048 + (byteOf n c.g).toNat / 4 * 32 + (byteOf n c.b).toNat / 8 := by
  rw [rgb565, append_toNat, append_toNat, topBits_toNat _ rfl, topBits_toNat _ rfl, topBits_toNat _ rfl]
  omega

/-- The packed ARGB word has the layout of a colour payload, alpha first. -/
theorem argb32_eq_colorPayload : argb32 n c =
    colorPayload (byteOf n c.a) (byteOf n c.r) (byteOf n c.g) (byteOf n c.b) := rfl

theorem leBytes_argb32 : leBytes 4 (argb32 n c) = [byteOf n c.b, byteOf n c.g, byteOf n c.r, byteOf n c.a] := by
  have bytes (v : Word) : leBytes 4 v =
      [v.extractLsb' 0 8, v.extractLsb' 8 8, v.extractLsb' 16 8, v.extractLsb' 24 8] := rfl
  rw [argb32_eq_colorPayload, bytes, colorPayload_a8, colorPayload_b8, colorPayload_g8, colorPayload_r8]

end

/-- Settles O47: the RGB565 word by its value, the packed word byte by byte. -/
theorem pixelFormats : Obligations.PixelFormats := by
  refine fun n c => ⟨?_, rfl, leBytes_argb32 n c, fun bpp h16 h24 h32 => ?_⟩
  · rw [← rgb565_toNat, BitVec.ofNat_toNat, BitVec.setWidth_eq]
    rfl
  · rw [pixelBytes, if_neg h16, if_neg h24, if_neg h32]

end Sys2Proof.Machine
end

section
/-! SUPPORT. The frame, pixel by pixel: what the loops of a render leave at one pixel of the display is the fold of
that pixel alone, since no two pixels share a sample or a byte. -/

namespace Sys2Proof.Machine

variable {view : View} {old : Memory} {p : Polygon} {px py k : Nat} {c c' : Canvas} {a : Depth × Option Rgba}

-- no two pixels share a byte or a sample

theorem pixelSize_of_lt {bpp : Nat} (h : k < pixelSize bpp) : pixelSize bpp = bpp / 8 := by
  unfold pixelSize at h ⊢
  split_ifs at h ⊢
  · rfl
  · exact absurd h (Nat.not_lt_zero k)

/-- Where rows do not overlap, a byte of one pixel is a byte of no other (R271). -/
theorem pixelOffset_apart {qx qy : Nat} (hstride : view.width ≤ view.stride) (hx : px < view.width)
    (hq : qx < view.width) (hne : (qx, qy) ≠ (px, py)) (hk : k < pixelSize view.bpp) :
    ¬(pixelOffset view qx qy ≤ pixelOffset view px py + k ∧
      pixelOffset view px py + k < pixelOffset view qx qy + pixelSize view.bpp) := by
  rintro ⟨hlo, hhi⟩
  rw [pixelSize_of_lt hk] at hhi
  have hk' : k < view.bpp / 8 := pixelSize_of_lt hk ▸ hk
  obtain ⟨j, hj⟩ := Nat.exists_eq_add_of_le hlo
  obtain ⟨index, -⟩ := (tileNumber_inj hk' (by omega : j < view.bpp / 8)).1 hj
  obtain ⟨rfl, rfl⟩ := (tileNumber_inj (hx.trans_le hstride) (hq.trans_le hstride)).1 index
  exact hne rfl

-- one pixel

/-- Byte `k` of a pixel with a colour drawn, or, where none is drawn, as it was. -/
def shownByte (view : View) (before : Byte) (k : Nat) : Option Rgba → Byte
  | none => before
  | some col => (pixelBytes view.num view.bpp col).getD k 0#8

/-- A canvas over a memory `old` of FB shows at a pixel a depth and the last colour drawn there, if any was. -/
structure Shows (view : View) (old : Memory) (px py : Nat) (a : Depth × Option Rgba) (c : Canvas) : Prop where
  depth : cellsRead depthClear c.zbuf (py * view.width + px) = a.1
  bytes : ∀ k, k < pixelSize view.bpp → memRead c.mem (view.base + (pixelOffset view px py + k)) =
    shownByte view (memRead old (view.base + (pixelOffset view px py + k))) k a.2

theorem shows_cleared : Shows view old px py (depthClear, none) ⟨[], old⟩ := ⟨rfl, fun _ _ => rfl⟩

/-- What a pixel store leaves at an address. -/
theorem memRead_writePixel {qx qy b : Nat} {col : Rgba} {m m' : Memory} (h : writePixel view qx qy col m = some m') :
    memRead m' b = if view.base + pixelOffset view qx qy ≤ b ∧
        b < view.base + pixelOffset view qx qy + pixelSize view.bpp then
      (pixelBytes view.num view.bpp col).getD (b - (view.base + pixelOffset view qx qy)) 0#8 else memRead m b := by
  have stored : m' = memWriteBytes m (view.base + pixelOffset view qx qy) (pixelBytes view.num view.bpp col) := by
    rcases writePixel_cases h with ⟨empty, rfl⟩ | ⟨-, rfl⟩
    · rw [empty]
      rfl
    · rfl
  have size : (pixelBytes view.num view.bpp col).length = pixelSize view.bpp := length_pixelBytes ..
  rw [stored, memRead_memWriteBytes, size]

/-- Drawing another pixel of the display changes nothing that is shown here. -/
theorem Shows.draw_other {qx qy : Nat} (hs : Shows view old px py a c) (hstride : view.width ≤ view.stride)
    (hx : px < view.width) (hq : qx < view.width) (hne : (qx, qy) ≠ (px, py))
    (h : drawPixel view p qx qy c = some c') : Shows view old px py a c' := by
  rcases drawPixel_cases h with rfl | ⟨m, -, stored, rfl⟩
  · exact hs
  · refine ⟨?_, fun k hk => ?_⟩
    · rw [cellsRead_write, if_neg fun same => hne (by
        obtain ⟨rfl, rfl⟩ := (tileNumber_inj hq hx).1 same
        rfl)]
      exact hs.depth
    · have apart := pixelOffset_apart hstride hx hq hne hk
      rw [memRead_writePixel stored, if_neg (by omega)]
      exact hs.bytes k hk

/-- The polygon passes coverage and the depth test at a pixel whose sample is `z` (R265, R266). -/
def Draws (view : View) (p : Polygon) (px py : Nat) (z : Depth) : Prop :=
  covered (weightsAt view p.v px py) = true ∧
    ¬(polyFlag view p bitZtest = true ∧ z < depth16 view.num p.v (weightsAt view p.v px py))

variable {t : Tile}

theorem pixelAfter_of_draws (hcull : culled view p = false) (hdeg : degenerate view p.v = false)
    (hbox : (px, py) ∈ boxPixels (drawBox view t p.v)) (h : Draws view p px py a.1) : pixelAfter view t p px py a =
      (depth16 view.num p.v (weightsAt view p.v px py), some (shade view p (weightsAt view p.v px py))) :=
  if_pos ⟨hcull, hdeg, hbox, h⟩

theorem pixelAfter_of_not_draws (h : ¬Draws view p px py a.1) : pixelAfter view t p px py a = a :=
  if_neg fun ⟨_, _, _, draws⟩ => h draws

theorem pixelAfter_of_culled (h : culled view p = true) : pixelAfter view t p px py a = a :=
  if_neg fun ⟨kept, _⟩ => Bool.false_ne_true (kept.symm.trans h)

theorem pixelAfter_of_degenerate (h : degenerate view p.v = true) : pixelAfter view t p px py a = a :=
  if_neg fun ⟨_, solid, _⟩ => Bool.false_ne_true (solid.symm.trans h)

theorem pixelAfter_of_outside (h : (px, py) ∉ boxPixels (drawBox view t p.v)) : pixelAfter view t p px py a = a :=
  if_neg fun ⟨_, _, inside, _⟩ => h inside

/-- What one pixel of one polygon does: depth and colour stored exactly where the polygon draws (R258). -/
theorem drawPixel_eq_some (h : drawPixel view p px py c = some c') :
    (Draws view p px py (cellsRead depthClear c.zbuf (py * view.width + px)) ∧
      ∃ z m, depthPassAndWrite view p (weightsAt view p.v px py) px py c.zbuf = some z ∧
        writePixel view px py (shade view p (weightsAt view p.v px py)) c.mem = some m ∧ c' = ⟨z, m⟩) ∨
    ¬Draws view p px py (cellsRead depthClear c.zbuf (py * view.width + px)) ∧ c' = c := by
  by_cases hcov : covered (weightsAt view p.v px py) = true
  · cases hz : depthPassAndWrite view p (weightsAt view p.v px py) px py c.zbuf with
    | none =>
      rw [drawPixel, if_pos hcov, hz] at h
      exact .inr ⟨fun draws => draws.2 (depthPassAndWrite_eq_none.1 hz), by simpa using h.symm⟩
    | some z =>
      rw [drawPixel, if_pos hcov, hz] at h
      obtain ⟨m, hm, rfl⟩ := Option.map_eq_some_iff.1 h
      refine .inl ⟨⟨hcov, fun rejects => ?_⟩, z, m, rfl, hm, rfl⟩
      rw [depthPassAndWrite_eq_none.2 rejects] at hz
      cases hz
  · rw [drawPixel, if_neg hcov] at h
    exact .inr ⟨fun draws => hcov draws.1, by simpa using h.symm⟩

/-- Drawing the pixel itself is the fold's step there. -/
theorem Shows.draw_self (hs : Shows view old px py a c) (hcull : culled view p = false)
    (hdeg : degenerate view p.v = false) (hbox : (px, py) ∈ boxPixels (drawBox view t p.v))
    (h : drawPixel view p px py c = some c') : Shows view old px py (pixelAfter view t p px py a) c' := by
  have step := drawPixel_eq_some h
  rw [hs.depth] at step
  rcases step with ⟨draws, z, m, passed, stored, rfl⟩ | ⟨idle, rfl⟩
  · rw [pixelAfter_of_draws hcull hdeg hbox draws]
    refine ⟨?_, fun k hk => ?_⟩
    · rw [cellsRead_depthPassAndWrite passed, if_pos rfl]
    · rw [← Nat.add_assoc, memRead_writePixel stored, if_pos (by omega), Nat.add_sub_cancel_left]
      rfl
  · rwa [pixelAfter_of_not_draws idle]

-- the loops, one turn each

theorem drawPixels_cons {q : Nat × Nat} {qs : List (Nat × Nat)} (h : drawPixels view p (q :: qs) c = some c') :
    ∃ c1, drawPixel view p q.1 q.2 c = some c1 ∧ drawPixels view p qs c1 = some c' := by
  rw [drawPixels] at h
  cases first : drawPixel view p q.1 q.2 c with
  | none => simp [first] at h
  | some c1 => exact ⟨c1, rfl, by simpa [first] using h⟩

theorem renderRefs_cons {polys : List Polygon} {i : Nat} {l : List Nat}
    (h : renderRefs view polys t (i :: l) c = some c') :
    (polys[i]? = none ∧ renderRefs view polys t l c = some c') ∨
    ∃ p c1, polys[i]? = some p ∧ renderPolygon view p t c = some c1 ∧ renderRefs view polys t l c1 = some c' := by
  rw [renderRefs] at h
  cases live : polys[i]? with
  | none => exact .inl ⟨rfl, by simpa [live] using h⟩
  | some p =>
    cases first : renderPolygon view p t c with
    | none => simp [live, first] at h
    | some c1 => exact .inr ⟨p, c1, rfl, first, by simpa [live, first] using h⟩

theorem renderTiles_cons {polys : List Polygon} {ts : List Tile} (h : renderTiles view polys (t :: ts) c = some c') :
    ∃ c1, renderRefs view polys t (sortDescending (polyKey polys) t.list) c = some c1 ∧
      renderTiles view polys ts c1 = some c' := by
  rw [renderTiles] at h
  cases first : renderRefs view polys t (sortDescending (polyKey polys) t.list) c with
  | none => simp [first] at h
  | some c1 => exact ⟨c1, rfl, by simpa [first] using h⟩

-- what the loops show at one pixel

/-- The pixels of a box, each once. -/
theorem nodup_boxPixels (b : Box) : (boxPixels b).Nodup := by
  have span (lo hi : Int) : (intSpan lo hi).Nodup := List.nodup_range.map fun _ _ => Nat.add_left_cancel
  refine List.nodup_flatMap.2 ⟨fun qy _ => (span b.x0 b.x1).map fun _ _ same => congrArg Prod.fst same, ?_⟩
  refine (span b.y0 b.y1).imp fun hne q hleft hright => ?_
  obtain ⟨_, -, rfl⟩ := List.mem_map.1 hleft
  obtain ⟨_, -, same⟩ := List.mem_map.1 hright
  exact hne (congrArg Prod.snd same).symm

section
variable (hstride : view.width ≤ view.stride) (hx : px < view.width)
include hstride hx

theorem Shows.drawPixels_of_not_mem {qs : List (Nat × Nat)} (hs : Shows view old px py a c)
    (hqs : ∀ q ∈ qs, q.1 < view.width) (hmem : (px, py) ∉ qs) (h : drawPixels view p qs c = some c') :
    Shows view old px py a c' :=
  drawPixels_induct (P := Shows view old px py a)
    (fun q hq _ _ hs => hs.draw_other hstride hx (hqs q hq) fun same => hmem (same ▸ hq)) hs h

theorem Shows.drawPixels_of_mem {qs : List (Nat × Nat)} (hs : Shows view old px py a c)
    (hqs : ∀ q ∈ qs, q.1 < view.width) (hnodup : qs.Nodup) (hmem : (px, py) ∈ qs) (hcull : culled view p = false)
    (hdeg : degenerate view p.v = false) (hbox : (px, py) ∈ boxPixels (drawBox view t p.v))
    (h : drawPixels view p qs c = some c') : Shows view old px py (pixelAfter view t p px py a) c' := by
  induction qs generalizing c with
  | nil => cases hmem
  | cons q qs ih =>
    obtain ⟨hq, inside⟩ := List.forall_mem_cons.1 hqs
    obtain ⟨fresh, distinct⟩ := List.nodup_cons.1 hnodup
    obtain ⟨c1, first, rest⟩ := drawPixels_cons h
    rcases List.mem_cons.1 hmem with rfl | later
    · exact (hs.draw_self hcull hdeg hbox first).drawPixels_of_not_mem hstride hx inside fresh rest
    · have other : q ≠ (px, py) := fun same => fresh (same ▸ later)
      exact ih (hs.draw_other hstride hx hq other first) inside distinct later rest

/-- One polygon in one tile's turn (R258). -/
theorem Shows.renderPolygon (hs : Shows view old px py a c) (h : renderPolygon view p t c = some c') :
    Shows view old px py (pixelAfter view t p px py a) c' := by
  unfold Machine.renderPolygon at h
  split_ifs at h with hcull hdeg
  · cases h
    rwa [pixelAfter_of_culled hcull]
  · cases h
    rwa [pixelAfter_of_degenerate hdeg]
  · have inside : ∀ q ∈ boxPixels (drawBox view t p.v), q.1 < view.width := fun q hq => (drawBox_inside hq).1
    by_cases hbox : (px, py) ∈ boxPixels (drawBox view t p.v)
    · exact hs.drawPixels_of_mem hstride hx inside (nodup_boxPixels _) hbox (Bool.eq_false_iff.2 hcull)
        (Bool.eq_false_iff.2 hdeg) hbox h
    · rw [pixelAfter_of_outside hbox]
      exact hs.drawPixels_of_not_mem hstride hx inside hbox h

/-- The polygons of one tile, in the order of their references. -/
theorem Shows.renderRefs {polys : List Polygon} {l : List Nat} (hs : Shows view old px py a c)
    (h : renderRefs view polys t l c = some c') :
    Shows view old px py ((l.filterMap (fun i => polys[i]?)).foldl (fun a p => pixelAfter view t p px py a) a) c' := by
  induction l generalizing a c with
  | nil => cases h; exact hs
  | cons i l ih =>
    rcases renderRefs_cons h with ⟨dead, rest⟩ | ⟨p, c1, live, first, rest⟩
    · rw [List.filterMap_cons_none dead]
      exact ih hs rest
    · rw [List.filterMap_cons_some live]
      exact ih (hs.renderPolygon hstride hx first) rest

/-- The tiles in row-major order (R255). -/
theorem Shows.renderTiles {polys : List Polygon} {ts : List Tile} (hs : Shows view old px py a c)
    (h : renderTiles view polys ts c = some c') :
    Shows view old px py (ts.foldl (fun a t => (drawOrder polys t).foldl (fun a p => pixelAfter view t p px py a) a) a)
      c' := by
  induction ts generalizing a c with
  | nil => cases h; exact hs
  | cons t ts ih =>
    obtain ⟨c1, first, rest⟩ := renderTiles_cons h
    exact ih (hs.renderRefs hstride hx first) rest

end

variable {s : State}

/-- A render shows at every pixel of the display what the painter's fold makes of it. -/
theorem shows_framePixel (hstride : s.width ≤ s.stride) (hx : px < s.width)
    (h : renderTiles (viewOf s) s.polys s.tiles ⟨[], fbMemory s⟩ = some c) :
    Shows (viewOf s) (fbMemory s) px py (framePixel (viewOf s) s.polys s.tiles px py) c :=
  shows_cleared.renderTiles hstride hx h

/-- A render start that completes ends in the state `renderDone` of the walk's canvas (R218). -/
theorem exec_cmdRenderStart_eq_next {d : Word} {t : State} (h : exec (.cmdRenderStart d) s = .next t) :
    ∃ c, renderTiles (viewOf s) s.polys s.tiles ⟨[], fbMemory s⟩ = some c ∧ t = renderDone c s := by
  obtain ⟨s1, scene, rest⟩ := andThen_eq_next.1 (show execCmdRenderStart d s = .next t from h)
  obtain ⟨c, walk, rfl⟩ := renderScene_eq_next scene
  cases rest
  exact ⟨c, walk, rfl⟩

theorem fbByte_renderDone (n : Nat) : fbByte (renderDone c s) n = memRead c.mem (s.fb.base + n) := by
  have memory : fbMemory (renderDone c s) = c.mem := fbMemory_finishFrame c
  have binding : (renderDone c s).fb = s.fb := (congrArg State.fb (renderDone_rest c s) :)
  rw [fbByte, memory, binding]

-- the geometry of a polygon in exact arithmetic (R259 to R262, R265)

section
variable {view : View} {t : Tile} {v : Slots} {px py : Nat}

theorem culled_iff (hexact : view.cfg.numerics = .exact) (p : Polygon) : culled view p = true ↔
    polyFlag view p bitCullCcw = true ∧ cullArea .exact p.v < 0 ∨
      polyFlag view p bitCullCw = true ∧ 0 < cullArea .exact p.v := by
  simp only [culled, View.num, hexact, Bool.or_eq_true, Bool.and_eq_true, decide_eq_true_eq]

theorem degenerate_iff (hexact : view.cfg.numerics = .exact) :
    degenerate view v = true ↔ |rasterArea .exact v| < areaEps := by
  simp only [degenerate, View.num, hexact, decide_eq_true_eq]

theorem rasterArea_ne_zero (hexact : view.cfg.numerics = .exact) (h : degenerate view v = false) :
    rasterArea .exact v ≠ 0 := by
  intro zero
  have isDegenerate : degenerate view v = true := (degenerate_iff hexact).2 (by rw [zero]; norm_num [areaEps])
  exact Bool.false_ne_true (h.symm.trans isDegenerate)

/-- The pixels of a triangle's box (R260). -/
theorem mem_bbox : (px, py) ∈ boxPixels (bbox view v) ↔
    (min3 v.v0.x v.v1.x v.v2.x).floor ≤ px ∧ (px : Int) ≤ (max3 v.v0.x v.v1.x v.v2.x).ceil ∧
    (min3 v.v0.y v.v1.y v.v2.y).floor ≤ py ∧ (py : Int) ≤ (max3 v.v0.y v.v1.y v.v2.y).ceil ∧
    px < view.width ∧ py < view.height := by
  rw [mem_boxPixels (le_max_right ..) (le_max_right ..)]
  simp only [bbox, max_le_iff, le_min_iff]
  omega

/-- The pixels of a box cut down to a tile (R261). -/
theorem mem_clipToRect {b : Box} (hx : 0 ≤ b.x0) (hy : 0 ≤ b.y0) : (px, py) ∈ boxPixels (clipToRect t b) ↔
    (px, py) ∈ boxPixels b ∧ t.x ≤ px ∧ px < t.x + t.w ∧ t.y ≤ py ∧ py < t.y + t.h := by
  rw [mem_boxPixels (le_max_of_le_left hx) (le_max_of_le_left hy), mem_boxPixels hx hy]
  simp only [clipToRect, max_le_iff, le_min_iff]
  omega

theorem mem_drawBox : (px, py) ∈ boxPixels (drawBox view t v) ↔ (px, py) ∈ boxPixels (bbox view v) ∧
    (view.cfg.clipToTile = true → t.x ≤ px ∧ px < t.x + t.w ∧ t.y ≤ py ∧ py < t.y + t.h) := by
  unfold drawBox
  split_ifs with clip
  · simp only [mem_clipToRect (b := bbox view v) (le_max_right ..) (le_max_right ..), clip, true_imp_iff]
  · exact ⟨fun inside => ⟨inside, fun on => absurd on clip⟩, And.left⟩

theorem mem_Icc_min3_max3 (a b c : Rat) : a ∈ Set.Icc (min3 a b c) (max3 a b c) ∧
    b ∈ Set.Icc (min3 a b c) (max3 a b c) ∧ c ∈ Set.Icc (min3 a b c) (max3 a b c) := by
  simp [min3, max3]

/-- A weighted mean of three coordinates that is a pixel's sample point keeps the pixel between the floor of the
least and the ceil of the greatest, for a sample offset in [0,1). -/
theorem pixel_between {w : Weights} (hw : w.Convex) {a b c o : Rat} {k : Nat} (h0 : 0 ≤ o) (h1 : o < 1)
    (h : w.w0 * a + w.w1 * b + w.w2 * c = k + o) :
    (min3 a b c).floor ≤ k ∧ (k : Int) ≤ (max3 a b c).ceil := by
  obtain ⟨ha, hb, hc⟩ := mem_Icc_min3_max3 a b c
  obtain ⟨least, greatest⟩ := blend3_mem hw ha hb hc
  rw [blend3_exact, h] at least greatest
  constructor
  · have below : (min3 a b c).floor < (k : Int) + 1 := Rat.floor_lt_iff.2 (by push_cast; linarith)
    omega
  · have above : (k : Rat) ≤ (max3 a b c).ceil := by linarith [Rat.le_ceil (x := max3 a b c)]
    exact_mod_cast above

/-- The box holds every covered pixel of the display (R260, R265). -/
theorem mem_bbox_of_covered (hexact : view.cfg.numerics = .exact) (h0 : 0 ≤ view.cfg.sampleOffset)
    (h1 : view.cfg.sampleOffset < 1) (hdeg : degenerate view v = false) (hx : px < view.width) (hy : py < view.height)
    (hcov : covered (weightsAt view v px py) = true) : (px, py) ∈ boxPixels (bbox view v) := by
  have area := rasterArea_ne_zero hexact hdeg
  have convex := convex_of_covered hexact area hcov
  rw [weightsAt_of_exact v hexact] at convex
  obtain ⟨pointX, pointY⟩ := pointWeights_interpolate _ _ area
  obtain ⟨left, right⟩ := pixel_between convex h0 h1 pointX
  obtain ⟨top, bottom⟩ := pixel_between convex h0 h1 pointY
  exact mem_bbox.2 ⟨left, right, top, bottom, hx, hy⟩

end

/-- Settles O41: the walk over the tiles shows at each pixel the fold (`shows_framePixel`); the geometry is that of
`culled_iff`, `degenerate_iff`, `mem_drawBox` and `mem_bbox_of_covered`. -/
theorem frameIsPaintersFold : Obligations.FrameIsPaintersFold := by
  refine ⟨fun d s t px py run hstride hx _ => ?_, fun view p tile hexact => ?_⟩
  · obtain ⟨c, walk, rfl⟩ := exec_cmdRenderStart_eq_next run
    have shown := shows_framePixel (py := py) hstride hx walk
    refine ⟨(zSample_finishFrame (s := s) c _).trans shown.depth, fun k hk => ?_⟩
    refine (fbByte_renderDone _).trans ((shown.bytes k hk).trans ?_)
    cases (framePixel (viewOf s) s.polys s.tiles px py).2 <;> rfl
  · refine ⟨culled_iff hexact p, degenerate_iff hexact, fun px py => ?_,
      fun clip h0 h1 hdeg px py hx hy hcov => ?_⟩
    · rw [mem_drawBox, mem_bbox]
      simp only [min3, max3, and_assoc]
    · exact mem_drawBox.2 ⟨mem_bbox_of_covered hexact h0 h1 hdeg hx hy hcov, fun on =>
        absurd (clip.symm.trans on) Bool.false_ne_true⟩

end Sys2Proof.Machine
end

section
/-! SUPPORT. The write of DMA.CONTROL with START, where a parameter fails the validation. -/

namespace Sys2Proof.Machine

variable {s : State} {v : Word}

/-- What a failed validation is (R302): naturals, so the end of the destination does not wrap. -/
theorem dmaValid_eq_false_iff : dmaValid s = false ↔
    s.cfg.vramSize ≤ dmaSource s ∨ s.cfg.vramSize ≤ dmaTarget s ∨ s.cfg.vramSize < dmaTarget s + dmaSize s := by
  simp only [dmaValid, Bool.and_eq_false_iff, decide_eq_false_iff_not, not_lt, not_le, or_assoc]

/-- Neither the store of DMA.CONTROL nor the busy flags move a parameter, so the validation reads the state
before the write. -/
theorem dmaValid_dmaBegin_dmaStored : dmaValid (dmaBegin (dmaStored v s)) = dmaValid s := by
  obtain ⟨esrc, edst, esize⟩ := dma_parameters_start v s
  rw [← dmaStored] at esrc edst esize
  rw [dmaValid, esrc, edst, esize]
  rfl

/-- The state after a start that is skipped: the diagnostic stands where `dmaCopied` has the copy (R303). -/
def dmaSkipped (v : Word) (s : State) : State :=
  dmaConclude (diag (.dmaRange (dmaSource s) (dmaTarget s) (dmaSize s)) (dmaBegin (dmaStored v s)))

theorem dmaSkipped_rest : dmaSkipped v s = { s with
    regs := (dmaSkipped v s).regs
    dmaControl := v
    timerArmed := true
    out := .timerArm s.cfg.timerLatencyUs ::
      .diag (.dmaRange (dmaSource s) (dmaTarget s) (dmaSize s)) :: s.out } := by
  rw [dmaSkipped, dmaConclude_rest, dmaBegin_rest]
  rfl

/-- A start that fails the validation is skipped, and its diagnostic names the parameters as they stood before
the write (`dma_parameters_start`). -/
theorem dmaStart_of_not_valid (h : dmaValid s = false) : dmaStart (dmaStored v s) = .next (dmaSkipped v s) := by
  obtain ⟨esrc, edst, esize⟩ := dma_parameters_start v s
  rw [← dmaStored] at esrc edst esize
  have invalid : ¬ dmaValid (dmaBegin (dmaStored v s)) = true := by
    rw [dmaValid_dmaBegin_dmaStored, h]
    exact Bool.false_ne_true
  rw [dmaStart, dmaTransfer, if_neg invalid, esrc, edst, esize]
  rfl

/-- Settles O26: each of the three range failures fails the validation; the skip writes a diagnostic only, so the
registers are those that every start leaves (`dmaStarted_of_transfer`). -/
theorem dmaOutOfRangeSkips : Obligations.DmaOutOfRangeSkips := by
  intro v s hstart hrange
  have run := exec_dmaControl_of_start hstart (dmaStart_of_not_valid (v := v) (dmaValid_eq_false_iff.2 hrange))
  refine ⟨_, run, ?_, dmaStarted_of_transfer rfl rfl, ?_⟩ <;>
    rw [resetDmaIf_rest, dmaSkipped_rest]
  exact .refl s

end Sys2Proof.Machine
end

section
/-! SUPPORT. Which status flags a step can write: a host access only those of the FIFO, the two of a render, DMA_BUSY
and VBLANK, unless it resets the block; so RENDER_COMPLETE is the work of a timer fire alone. -/

namespace Sys2Proof.Machine

variable {s t : State} {v : Word} {e : HostEvent} {rest : List HostEvent}

/-- The flags that an instruction other than a full reset may write: those of a drain, DMA_BUSY and VBLANK. -/
def instrFlags : List Nat := bitDmaBusy :: bitVblank :: drainFlags

theorem renderComplete_not_mem_instrFlags : bitRenderComplete ∉ instrFlags := by decide

-- the flags after the writes that do more than store

theorem statusBit_clearBankIf {i j : Nat} {b : BitVec 3} (h : b ≠ bankCore) :
    statusBit (clearBankIf v i b s) j = statusBit s j := by
  unfold clearBankIf
  split_ifs
  · exact statusBit_clearBank h
  · rfl

/-- REG.CORE.STATUS is in none of the banks that a partial reset clears (R137). -/
theorem statusBit_partialResets (i : Nat) : statusBit (partialResets v s) i = statusBit s i := by
  rw [partialResets, statusBit_clearBankIf (by decide), statusBit_clearBankIf (by decide),
    statusBit_clearBankIf (by decide), statusBit_clearBankIf (by decide)]

/-- A DMA start raises DMA_BUSY and writes no other flag (R300, R304). -/
theorem statusBit_dmaStart (h : dmaStart s = .next t) {i : Nat} (hi : i ≠ bitDmaBusy) :
    statusBit t i = statusBit s i := by
  obtain ⟨w, rfl, hw⟩ := dmaStart_eq_next h
  have begun : w.regs = (dmaBegin s).regs ∧ w.cfg = (dmaBegin s).cfg := by
    rcases hw with ⟨-, -, m, -, rfl⟩ | ⟨-, rfl⟩ <;> exact ⟨rfl, rfl⟩
  obtain ⟨hregs, hcfg⟩ := begun
  calc statusBit (dmaConclude w) i
      = statusBit w i := regBit_of_getReg (getReg_dmaConclude_of_ne (by decide))
    _ = statusBit (dmaBegin s) i := statusBit_congr hregs hcfg
    _ = statusBit s i := by rw [statusBit_dmaBegin, if_neg hi]

/-- An operation that is run only where it is asked for. -/
theorem next_of_ite {c : Prop} [Decidable c] {o : Result} (h : (if c then o else .next s) = .next t) :
    t = s ∨ o = .next t := by
  split_ifs at h
  · exact .inr h
  · cases h
    exact .inl rfl

/-- What a write of DMA.CONTROL can do (R159): the store, perhaps a start, perhaps a reset of the bank. -/
theorem exec_dmaControl_eq_next (h : exec (.dmaControl v) s = .next t) :
    ∃ w, (w = dmaStored v s ∨ dmaStart (dmaStored v s) = .next w) ∧
      t = resetDmaIf (namedBit s.cfg regDmaControl v bitReset) w := by
  obtain ⟨w, started, ht⟩ := andThen_eq_next.1 h
  cases ht
  exact ⟨w, next_of_ite started, rfl⟩

/-- What a write of RENDER.CONTROL can do (R150): the store, perhaps a start request, perhaps a reset of the bank. -/
theorem exec_renderControl_eq_next (h : exec (.renderControl v) s = .next t) :
    ∃ w, (w = renderStored v s ∨ push cmdIdRenderStart v (renderRequested v s) = .next w) ∧
      t = resetRenderIf (namedBit s.cfg regRenderControl v bitReset) w := by
  obtain ⟨w, started, ht⟩ := andThen_eq_next.1 h
  cases ht
  exact ⟨w, next_of_ite started, rfl⟩

theorem statusBit_exec_dmaControl (h : exec (.dmaControl v) s = .next t) {i : Nat} (hi : i ≠ bitDmaBusy) :
    statusBit t i = statusBit s i := by
  obtain ⟨w, hw, rfl⟩ := exec_dmaControl_eq_next h
  rw [statusBit_resetDmaIf hi]
  rcases hw with rfl | hw
  · exact statusBit_dmaStored i
  · exact (statusBit_dmaStart hw hi).trans (statusBit_dmaStored i)

theorem statusBit_exec_renderControl (h : exec (.renderControl v) s = .next t) {i : Nat} (hi : i ∉ drainFlags) :
    statusBit t i = statusBit s i := by
  obtain ⟨w, hw, rfl⟩ := exec_renderControl_eq_next h
  obtain ⟨-, -, -, requested, -⟩ := renderRequested_spec v s
  have outside {l : List Nat} (hl : l ⊆ drainFlags) : i ∉ l := fun m => hi (hl m)
  rw [statusBit_resetRenderIf (outside (by decide))]
  rcases hw with rfl | hw
  · exact statusBit_renderStored i
  · exact ((push_drained hw).status i hi).trans (requested i (outside (by decide)))

/-- A push after a store into a register other than REG.CORE.STATUS. -/
theorem storeAndForward_status {r : RegName} {c : CmdId} (hr : r ≠ regCoreStatus)
    (h : storeAndForward r c v s = .next t) : StatusSameExcept drainFlags s t := fun i hi =>
  ((push_drained h).status i hi).trans (statusBit_setReg_of_ne hr)

-- one instruction

theorem StatusSameExcept.mono {a b : List Nat} (h : StatusSameExcept a s t) (hab : a ⊆ b) :
    StatusSameExcept b s t := fun i hi => h i fun m => hi (hab m)

/-- A command is dispatched by its word, so it writes what a drain may (R102, R210). -/
theorem exec_command_status {k : Instr} {c : CmdId} {d : Word} (hw : k.wf = true)
    (hk : encode k = .cmd (cmdWord c d)) (h : exec k s = .next t) : StatusSameExcept drainFlags s t := by
  have decoded : decodeCmd c d = k := by rw [← decode_cmdWord, ← hk, decodeEncode k hw]
  exact (dispatch_drained (by rw [dispatch_eq_exec, decoded, h])).status

/-- The flags that an instruction may write, unless it is a full reset. -/
theorem exec_status {k : Instr} (hw : k.wf = true)
    (hr : ∀ v, k = .coreReset v → namedBit s.cfg regCoreReset v bitResetCore = false)
    (h : exec k s = .next t) : StatusSameExcept instrFlags s t := by
  have drained (hd : StatusSameExcept drainFlags s t) : StatusSameExcept instrFlags s t := hd.mono (by decide)
  cases k with
  | coreReset v =>
    rw [exec, execCoreReset, hr v rfl, if_neg Bool.false_ne_true] at h
    cases h
    exact fun i _ => (statusBit_partialResets i).trans (statusBit_setReg_of_ne (by decide))
  | polyVertex v | polyNormal v | polyColor v | polyTexcoord v =>
    exact drained (storeAndForward_status (by decide) h)
  | renderControl v => exact drained fun _ => statusBit_exec_renderControl h
  | dmaControl v => exact fun _ hi => statusBit_exec_dmaControl h fun e => hi (by simp [e, instrFlags])
  | coreConfig v =>
    cases h
    exact fun _ _ => statusBit_setReg_of_ne (by decide)
  | polyControl v | texControl v | texAddr v | texFormat v | texFilter v | renderZbuffer v
  | renderBlend v | videoFbaddr v | videoStride v | dmaSrc v | dmaDest v | dmaCount v | intClear v | intStatus v
  | intMask v =>
    cases h
    exact fun _ _ => statusBit_setReg_of_ne (bank_ne_status (by decide) _)
  | pciStore word v | intStore word v =>
    cases h
    exact fun _ _ => statusBit_setReg_of_ne (bank_ne_status (by decide) word)
  | regStore bank word v =>
    simp only [Instr.wf, Bool.and_eq_true, decide_eq_true_eq] at hw
    obtain ⟨⟨hnamed, -⟩, -⟩ := hw
    cases h
    exact fun _ _ => statusBit_setReg_of_ne fun e => hnamed (e ▸ by decide)
  | coreStatusRd =>
    cases h
    exact fun i hi => (statusBit_setStatus (by decide)).trans (if_neg fun e => hi (by simp [← e, instrFlags]))
  | coreStatus v | regUnalignedWr addr v | regUnknownWr addr v | regLoad bank word | regUnalignedRd addr
  | regUnknownRd addr =>
    cases h
    exact fun _ _ => rfl
  | cmdVertex x y z | cmdTexAddr arg | cmdTexUv x y | cmdTexFormat arg | cmdTexUnknown sub arg | cmdColor r g b a
  | cmdRenderStart d | cmdUnknown c d => exact drained (exec_command_status hw rfl h)

-- one event

/-- The full reset that a write of CORE.RESET asks for is that of its own value. -/
theorem decode_regw_coreReset {a : RegAddr} {w : Word} (h : decode (.regw a v) = .coreReset w) : w = v := by
  have code := encode_decodeWrite a v
  rw [show decodeWrite a v = .coreReset w from h, encode] at code
  exact (Access.regw.inj code).2

theorem decode_regr_ne_coreReset (a : RegAddr) (w : Word) : decode (.regr a) ≠ .coreReset w := fun h => by
  have code := encode_decodeRead a
  rw [show decodeRead a = .coreReset w from h, encode] at code
  cases code

/-- A host access, a display change, a close or a change of the vertical blank writes no flag but `instrFlags`. -/
theorem runEvent_status (hreset : resetsBlock s.cfg e = false) (hfire : e ≠ .timerFire)
    (h : runEvent e s = .next t) : StatusSameExcept instrFlags s t := by
  cases e with
  | write a v =>
    refine exec_status (decode_wf _) (fun w hw => ?_) h
    obtain rfl := decode_regw_coreReset hw
    simpa [resetsBlock, hw] using hreset
  | read a => exact exec_status (decode_wf _) (fun w hw => absurd hw (decode_regr_ne_coreReset _ w)) h
  | timerFire => exact absurd rfl hfire
  | init w ht st d fb => cases hreset
  | updateDisplay w ht st d fb | close | vblank level =>
    cases h
    exact fun _ _ => rfl

/-- After a full reset or an `init`, FIFO_EMPTY is the only flag set (R33, R56, R324). -/
theorem statusBit_of_resetsBlock (hreset : resetsBlock s.cfg e = true) (h : runEvent e s = .next t) (i : Nat) :
    statusBit t i = decide (i = bitFifoEmpty) := by
  cases e with
  | write a v =>
    simp only [resetsBlock, Bool.and_eq_true, decide_eq_true_eq] at hreset
    obtain ⟨hdecode, hbit⟩ := hreset
    rw [runEvent, hdecode, exec, execCoreReset, if_pos hbit] at h
    cases h
    exact statusBit_of_seedRegs rfl i
  | init w ht st d fb =>
    cases h
    exact statusBit_of_seedRegs rfl i
  | read a | timerFire | updateDisplay w ht st d fb | close | vblank level => cases hreset

/-- A fire sets RENDER_COMPLETE, and the drain after it writes that flag no more (R316). -/
theorem timerFire_renderComplete (h : timerFire s = .next t) : statusBit t bitRenderComplete = true := by
  unfold timerFire at h
  split_ifs at h
  rw [(drainLoop_drained h).status _ (by decide), statusBit_fireFlags, if_pos rfl]

/-- Settles O49: a fire sets the flag, a reset clears it, and every other event keeps it (`runEvent_status`). -/
theorem renderCompleteIsSticky : Obligations.RenderCompleteIsSticky := by
  intro s t e rest hinbox hstep
  obtain ⟨e', rest', hinbox', -, run⟩ := step_eq_next hstep
  obtain ⟨rfl, rfl⟩ := List.cons.inj (hinbox.symm.trans hinbox')
  have taken : statusBit { s with inbox := rest } bitRenderComplete = statusBit s bitRenderComplete :=
    statusBit_congr rfl
  by_cases hfire : e = .timerFire
  · subst hfire
    exact ⟨fun _ _ => timerFire_renderComplete run, fun h => absurd rfl h⟩
  · cases hreset : resetsBlock { s with inbox := rest }.cfg e with
    | true =>
      have cleared : statusBit t bitRenderComplete = false := statusBit_of_resetsBlock hreset run bitRenderComplete
      exact ⟨fun h => absurd h.symm Bool.false_ne_true,
        fun _ h => absurd (cleared.symm.trans h) Bool.false_ne_true⟩
    | false =>
      have kept : statusBit t bitRenderComplete = statusBit s bitRenderComplete :=
        (runEvent_status hreset hfire run _ renderComplete_not_mem_instrFlags).trans taken
      exact ⟨fun _ => kept.trans, fun _ => kept.symm.trans⟩

end Sys2Proof.Machine
end

section
/-! SUPPORT. The tile grid: how many tiles, where each stands, and the one that holds a pixel. -/

namespace Sys2Proof.Machine

/-- The tile at column i and row j, clipped to the display. -/
def clippedTile (ts w h i j : Nat) : Tile := ⟨i * ts, j * ts, min ts (w - i * ts), min ts (h - j * ts), []⟩

theorem ceilDiv_le_iff {ts : Nat} (hts : 0 < ts) {n k : Nat} : ceilDiv n ts ≤ k ↔ n ≤ ts * k :=
  ceilDiv_le_iff_le_mul hts

theorem ceilDiv_eq_ceil {ts : Nat} (hts : 0 < ts) (n : Nat) : (ceilDiv n ts : Int) = ((n : Rat) / ts).ceil := by
  have htsq : (0 : Rat) < ts := by exact_mod_cast hts
  have natural : ceilDiv n ts = ⌈(n : Rat) / ts⌉₊ := eq_of_forall_ge_iff fun k => by
    rw [ceilDiv_le_iff hts, Nat.ceil_le, div_le_iff₀' htsq]
    exact_mod_cast Iff.rfl
  rw [natural, Int.natCast_ceil_eq_ceil (by positivity), Rat.ceil_eq_neg_floor_neg]
  rfl

/-- Rows of n entries, one after another, are numbered by their quotient and remainder. -/
theorem flatMap_range_eq_map {α : Type} {n : Nat} (hn : 0 < n) (m : Nat) (f : Nat → Nat → α) :
    ((List.range m).flatMap fun j => (List.range n).map (f j)) =
      (List.range (m * n)).map fun k => f (k / n) (k % n) := by
  induction m with
  | zero => simp
  | succ m ih =>
    rw [List.range_succ, List.flatMap_append, ih, Nat.succ_mul, List.range_add, List.map_append, List.map_map]
    congr 1
    simp only [List.flatMap_singleton]
    refine List.map_congr_left fun k hk => ?_
    have hk := List.mem_range.1 hk
    simp [Nat.mul_add_div, Nat.mul_comm m, hn, Nat.div_eq_of_lt hk, Nat.mod_eq_of_lt hk]

/-- The grid by tile number: tile (i, j) stands in row j of the list, at place i (R321). -/
theorem getElem?_gridTiles {ts w h k : Nat} {tile : Tile} : (gridTiles ts w h)[k]? = some tile ↔
    ∃ i < ceilDiv w ts, ∃ j < ceilDiv h ts, j * ceilDiv w ts + i = k ∧ clippedTile ts w h i j = tile := by
  rcases Nat.eq_zero_or_pos (ceilDiv w ts) with hw | hw
  · simp [gridTiles, hw]
  have numbered : gridTiles ts w h = (List.range (ceilDiv h ts * ceilDiv w ts)).map fun k =>
      clippedTile ts w h (k % ceilDiv w ts) (k / ceilDiv w ts) :=
    flatMap_range_eq_map hw (ceilDiv h ts) fun j i => clippedTile ts w h i j
  simp only [numbered, List.getElem?_map, Option.map_eq_some_iff, List.getElem?_eq_some_iff, List.getElem_range,
    List.length_range, exists_prop]
  constructor
  · rintro ⟨_, ⟨hk, rfl⟩, rfl⟩
    exact ⟨_, Nat.mod_lt k hw, _, (Nat.div_lt_iff_lt_mul hw).2 hk, Nat.div_add_mod' k _, rfl⟩
  · rintro ⟨i, hi, j, hj, rfl, rfl⟩
    obtain ⟨row, column⟩ := (Nat.div_mod_unique (a := j * ceilDiv w ts + i) (d := j) hw).2 ⟨by ring, hi⟩
    exact ⟨_, ⟨(Nat.div_lt_iff_lt_mul hw).1 (row.trans_lt hj), rfl⟩, by rw [row, column]⟩

/-- A place of an edge of length n lies in the clipped interval that its quotient names. -/
theorem mem_clippedSpan_iff {ts n x i : Nat} (hts : 0 < ts) (hx : x < n) :
    i * ts ≤ x ∧ x < i * ts + min ts (n - i * ts) ↔ x / ts = i := by
  rw [Nat.div_eq_iff hts]
  omega

theorem div_lt_ceilDiv {ts n x : Nat} (hts : 0 < ts) (hx : x < n) : x / ts < ceilDiv n ts := by
  rw [← not_le, ceilDiv_le_iff hts, not_le]
  exact (Nat.mul_div_le x ts).trans_lt hx

/-- Tile k of the grid holds a pixel of the display exactly when its row and its column are the pixel's. -/
theorem tileHolds_iff {ts w h x y k : Nat} (hts : 0 < ts) (hx : x < w) (hy : y < h) :
    (∃ tile : Tile, (gridTiles ts w h)[k]? = some tile ∧
      tile.x ≤ x ∧ x < tile.x + tile.w ∧ tile.y ≤ y ∧ y < tile.y + tile.h) ↔
    k = y / ts * ceilDiv w ts + x / ts := by
  constructor
  · rintro ⟨_, hk, hx0, hx1, hy0, hy1⟩
    obtain ⟨i, -, j, -, rfl, rfl⟩ := getElem?_gridTiles.1 hk
    rw [(mem_clippedSpan_iff hts hx).1 ⟨hx0, hx1⟩, (mem_clippedSpan_iff hts hy).1 ⟨hy0, hy1⟩]
  · rintro rfl
    obtain ⟨hx0, hx1⟩ := (mem_clippedSpan_iff hts hx).2 rfl
    obtain ⟨hy0, hy1⟩ := (mem_clippedSpan_iff hts hy).2 rfl
    have place := getElem?_gridTiles.2 ⟨_, div_lt_ceilDiv hts hx, _, div_lt_ceilDiv hts hy, rfl, rfl⟩
    exact ⟨_, place, hx0, hx1, hy0, hy1⟩

/-- Settles O52: the places by `getElem?_gridTiles`; the one tile of a pixel is that of its two quotients. -/
theorem gridPartitionsDisplay : Obligations.GridPartitionsDisplay := fun ts w h hts =>
  ⟨ceilDiv_eq_ceil hts w, length_gridTiles ts w h,
    fun i j hi hj => getElem?_gridTiles.2 ⟨i, hi, j, hj, rfl, rfl⟩,
    fun _ _ hx hy => ⟨_, (tileHolds_iff hts hx hy).2 rfl, fun _ hk => (tileHolds_iff hts hx hy).1 hk⟩⟩

end Sys2Proof.Machine
end

section
/-! SUPPORT. The steps that are no register access: the fire of the timer, the display change and `init`. -/

namespace Sys2Proof.Machine

variable {s : State} {e : HostEvent} {rest : List HostEvent}

/-- A living block admits every event, and a closed one an `init`. -/
theorem step_eq_runEvent (hinbox : s.inbox = e :: rest) (hadmitted : admitted e { s with inbox := rest } = true) :
    step s = runEvent e { s with inbox := rest } := by
  rw [step_of_inbox hinbox, hostStep, if_pos hadmitted]

-- the fire of the timer (R316)

theorem fireFlags_rest (s : State) : fireFlags s = { s with regs := (fireFlags s).regs } := by
  unfold fireFlags raiseCompletion
  split_ifs <;> rfl

/-- The interrupt flag goes up with its mask bit, and no other bit of REG.INT.STATUS moves (R316, R347). -/
theorem regBit_fireFlags_intStatus (i : Nat) : regBit (fireFlags s) regIntStatus i =
    (regBit s regIntStatus i || (decide (i = bitComplete) && regBit s regIntMask bitComplete)) := by
  have flagged {q : RegName} {j : Nat} (hq : regCoreStatus ≠ q) :
      regBit (setStatus bitRenderComplete true (setStatus bitDmaBusy false
        (setStatus bitRenderBusy false (setStatus bitRenderRunning false s)))) q j = regBit s q j := by
    simp only [setStatus, setRegBit, regBit_setReg_of_ne hq]
  rw [fireFlags, raiseCompletion, flagged (by decide)]
  cases regBit s regIntMask bitComplete with
  | true =>
    rw [if_pos rfl, regBit_setRegBit (by decide), flagged (by decide)]
    by_cases hi : i = bitComplete
    · simp [hi]
    · simp [hi, Ne.symm hi]
  | false => rw [if_neg Bool.false_ne_true, flagged (by decide), Bool.and_false, Bool.or_false]

-- `init` (R324)

/-- Settles O51: an `init` is admitted in a closed block too, and is the full reset of the state bound. -/
theorem initIsDisplayThenFullReset : Obligations.InitIsDisplayThenFullReset := by
  intro s rest w h stride bpp fb v hinbox hcore
  exact ⟨_, step_eq_runEvent hinbox rfl, rfl, rfl, if_pos hcore⟩

end Sys2Proof.Machine

-- the two settling theorems stand beside, not in, the namespace of the operations whose names they have
namespace Sys2Proof.Laws

open Machine

/-- Settles O48: the drained state is that of `fireFlags`, on the state with the timer disarmed. -/
theorem timerFire : Obligations.TimerFire := by
  intro s rest hopen hinbox
  have run : step s = Machine.timerFire { s with inbox := rest } :=
    step_eq_runEvent hinbox (by rw [admitted, hopen]; rfl)
  rw [run, Machine.timerFire]
  refine ⟨fun hidle => if_neg (by simp [hidle]), fun harmed => ⟨_, if_pos harmed, ?_⟩⟩
  refine ⟨statusBit_fireFlags _, statusBit_fireFlags _, statusBit_fireFlags _, statusBit_fireFlags _, fun i hi => ?_,
    regBit_fireFlags_intStatus, fun q hq => ?_, ?_, fireFlags_rest _⟩
  · simp only [List.mem_cons, List.not_mem_nil, or_false, not_or] at hi
    obtain ⟨hrunning, hbusy, hdma, hcomplete⟩ := hi
    rw [statusBit_fireFlags, if_neg hcomplete, if_neg (by simp [hrunning, hbusy, hdma])]
    exact statusBit_congr rfl
  · simp only [List.mem_cons, List.not_mem_nil, or_false, not_or] at hq
    obtain ⟨hstatus, hint⟩ := hq
    exact getReg_fireFlags hstatus hint
  · rw [fireFlags_rest]
    exact .refl s

/-- Settles O50: the grid is `gridTiles`, whose lists are empty, and neither memory is a part of what changes. -/
theorem updateDisplay : Obligations.UpdateDisplay := by
  intro s rest w h stride bpp fb hopen hinbox
  have run : step s = .next (Machine.updateDisplay w h stride bpp fb { s with inbox := rest }) :=
    step_eq_runEvent hinbox (by rw [admitted, hopen]; rfl)
  exact ⟨_, run, rfl, rfl, rfl, fun _ => gridTiles_list, fun _ => rfl, fun _ => rfl, rfl⟩

end Sys2Proof.Laws
end

section
/-! SUPPORT. The registers after a write of DMA.CONTROL: they follow from the registers and the bit positions before
it, whatever its transfer does. -/

namespace Sys2Proof.Machine

variable {s s' t : State} {v : Word}

/-- A bit stands where `BIT_*` alone puts it, whatever the other parameters are (R7). -/
theorem bitPlace_congr {p p' : Params} (h : p'.bits = p.bits) (r : RegName) (i : Nat) :
    bitPlace p' r i = bitPlace p r i := by
  simp only [bitPlace, bitTable, h]

theorem namedBit_congr {p p' : Params} (h : p'.bits = p.bits) (r : RegName) (v : Word) (i : Nat) :
    namedBit p' r v i = namedBit p r v i := by
  simp only [namedBit, bitPlace_congr h]

-- states that no register operation tells apart

/-- The same registers, and the bits at the same positions: all that a write of a register or of a bit reads. -/
structure RegsAlike (s s' : State) : Prop where
  regs : s'.regs = s.regs
  bits : s'.cfg.bits = s.cfg.bits

theorem RegsAlike.setReg (h : RegsAlike s s') (r : RegName) (v : Word) : RegsAlike (setReg r v s) (setReg r v s') where
  regs := by rw [setReg_regs, setReg_regs, h.regs]
  bits := h.bits

theorem RegsAlike.setRegBit (h : RegsAlike s s') (r : RegName) (i : Nat) (x : Bool) :
    RegsAlike (setRegBit r i x s) (setRegBit r i x s') := by
  rw [Machine.setRegBit, Machine.setRegBit, getReg_congr h.regs, bitPlace_congr h.bits]
  exact h.setReg r _

theorem RegsAlike.clearBank (h : RegsAlike s s') (b : BitVec 3) : RegsAlike (clearBank b s) (clearBank b s') where
  regs := by rw [clearBank_regs, clearBank_regs, h.regs]
  bits := h.bits

-- the parts of the write

theorem RegsAlike.dmaStored (h : RegsAlike s s') (v : Word) : RegsAlike (dmaStored v s) (dmaStored v s') :=
  ⟨(h.setReg regDmaControl v).regs, h.bits⟩

theorem RegsAlike.dmaBegin (h : RegsAlike s s') : RegsAlike (dmaBegin s) (dmaBegin s') :=
  (h.setRegBit regCoreStatus bitDmaBusy true).setRegBit regDmaStatus bitDmaActive true

theorem RegsAlike.dmaConclude (h : RegsAlike s s') : RegsAlike (dmaConclude s) (dmaConclude s') :=
  have flagged := (h.setRegBit regDmaStatus bitDmaActive false).setRegBit regDmaStatus bitDmaDone true
  ⟨flagged.regs, flagged.bits⟩

theorem RegsAlike.resetDmaIf (h : RegsAlike s s') (x : Bool) : RegsAlike (resetDmaIf x s) (resetDmaIf x s') := by
  cases x with
  | false => exact h
  | true => exact (h.clearBank bankDma).setRegBit regCoreStatus bitDmaBusy false

-- the write

/-- A write of DMA.CONTROL whose start goes from the busy window straight to the conclusion: neither a copy nor a
diagnostic, and no validation (R159 to R161, R300, R304). -/
def dmaUntransferred (v : Word) (s : State) : State :=
  resetDmaIf (namedBit s.cfg regDmaControl v bitReset)
    (if namedBit s.cfg regDmaControl v bitStart then dmaConclude (dmaBegin (dmaStored v s)) else dmaStored v s)

theorem RegsAlike.dmaUntransferred (h : RegsAlike s s') (v : Word) :
    RegsAlike (dmaUntransferred v s) (dmaUntransferred v s') := by
  rw [Machine.dmaUntransferred, Machine.dmaUntransferred, namedBit_congr h.bits, namedBit_congr h.bits]
  refine RegsAlike.resetDmaIf ?_ _
  split_ifs
  · exact (h.dmaStored v).dmaBegin.dmaConclude
  · exact h.dmaStored v

/-- The transfer leaves the registers alone, be it the copy or the skip with its diagnostic (R303). -/
theorem dmaStart_regsAlike (h : dmaStart s = .next t) : RegsAlike (dmaConclude (dmaBegin s)) t := by
  obtain ⟨w, rfl, ⟨-, -, m, -, rfl⟩ | ⟨-, rfl⟩⟩ := dmaStart_eq_next h <;>
    exact RegsAlike.dmaConclude ⟨rfl, rfl⟩

theorem exec_dmaControl_regsAlike (h : exec (.dmaControl v) s = .next t) : RegsAlike (dmaUntransferred v s) t := by
  obtain ⟨w, started, ht⟩ := andThen_eq_next.1 h
  cases ht
  refine RegsAlike.resetDmaIf ?_ _
  split_ifs at started ⊢
  · exact dmaStart_regsAlike started
  · cases started
    exact ⟨rfl, rfl⟩

/-- Settles O27: the registers after either write are those without a transfer, which agree where the registers and
the bit positions did. -/
theorem dmaFailureNotInRegisters : Obligations.DmaFailureNotInRegisters := by
  intro v s s' t t' hregs hbits ht ht'
  have before : RegsAlike s s' := ⟨hregs, hbits⟩
  calc t'.regs = (dmaUntransferred v s').regs := (exec_dmaControl_regsAlike ht').regs
    _ = (dmaUntransferred v s).regs := (before.dmaUntransferred v).regs
    _ = t.regs := (exec_dmaControl_regsAlike ht).regs.symm

end Sys2Proof.Machine
end

section
/-! SUPPORT. A step completes: FB covers the display, a DMA that starts reads inside VRAM, and only an armed timer
fires. -/

namespace Sys2Proof.Machine

variable {s : State} {v w : Word} {k : Instr}

-- the writes that can be refused

/-- A start is refused only where its validation passes and its source runs beyond VRAM (U6). -/
theorem dmaStart_completes (hin : dmaValid s = true → dmaSource s + dmaSize s ≤ s.cfg.vramSize) (v : Word) :
    ∃ t, dmaStart (dmaStored v s) = .next t := by
  cases hvalid : dmaValid s with
  | false => exact ⟨_, dmaStart_of_not_valid hvalid⟩
  | true =>
    have inside := hin hvalid
    simp only [dmaValid, Bool.and_eq_true, decide_eq_true_eq] at hvalid
    obtain ⟨⟨hsrc, hdst⟩, hend⟩ := hvalid
    exact ⟨_, dmaStart_of_valid hsrc hdst hend inside⟩

theorem exec_dmaControl_completes (hin : namedBit s.cfg regDmaControl v bitStart = true → dmaValid s = true →
    dmaSource s + dmaSize s ≤ s.cfg.vramSize) : ∃ t, exec (.dmaControl v) s = .next t := by
  cases hstart : namedBit s.cfg regDmaControl v bitStart with
  | false => exact ⟨_, exec_dmaControl_of_not_start hstart⟩
  | true =>
    obtain ⟨w, hw⟩ := dmaStart_completes (hin hstart) v
    exact ⟨_, exec_dmaControl_of_start hstart hw⟩

theorem exec_renderControl_completes (hfb : FbCovers s) (v : Word) : ∃ t, exec (.renderControl v) s = .next t := by
  cases hstart : namedBit s.cfg regRenderControl v bitStart with
  | false => exact ⟨_, exec_renderControl_of_not_start hstart⟩
  | true =>
    obtain ⟨w, hw⟩ := push_completes (s := renderRequested v s) hfb cmdIdRenderStart v
    exact ⟨_, exec_renderControl_of_start hstart hw⟩

theorem storeAndForward_completes (hfb : FbCovers s) (r : RegName) (c : CmdId) (v : Word) :
    ∃ t, storeAndForward r c v s = .next t :=
  push_completes (s := setReg r v s) hfb c v

/-- A command completes as its dispatch does (R210). -/
theorem exec_command_completes {c : CmdId} {d : Word} (hw : k.wf = true) (hk : encode k = .cmd (cmdWord c d))
    (hfb : FbCovers s) : ∃ t, exec k s = .next t := by
  have decoded : decodeCmd c d = k := by rw [← decode_cmdWord, ← hk, decodeEncode k hw]
  rw [← decoded, ← dispatch_eq_exec]
  exact dispatch_completes hfb c d

-- one instruction

/-- Under the host's promises of U5 and U6 every instruction completes. -/
theorem exec_completes (hw : k.wf = true) (hfb : FbCovers s)
    (hdma : ∀ v, k = .dmaControl v → namedBit s.cfg regDmaControl v bitStart = true → dmaValid s = true →
      dmaSource s + dmaSize s ≤ s.cfg.vramSize) : ∃ t, exec k s = .next t := by
  cases k with
  | dmaControl v => exact exec_dmaControl_completes (hdma v rfl)
  | renderControl v => exact exec_renderControl_completes hfb v
  | polyVertex v | polyNormal v | polyColor v | polyTexcoord v => exact storeAndForward_completes hfb _ _ v
  | cmdVertex x y z | cmdTexAddr arg | cmdTexUv x y | cmdTexFormat arg | cmdTexUnknown sub arg | cmdColor r g b a
  | cmdRenderStart d | cmdUnknown c d => exact exec_command_completes hw rfl hfb
  | coreReset v =>
    rw [exec, execCoreReset]
    split_ifs <;> exact ⟨_, rfl⟩
  | coreConfig v | coreStatus v | polyControl v | texControl v | texAddr v | texFormat v | texFilter v
  | renderZbuffer v | renderBlend v | pciStore word v | videoFbaddr v | videoStride v | dmaSrc v | dmaDest v
  | dmaCount v | intClear v | intStatus v | intMask v | intStore word v | regStore bank word v
  | regUnalignedWr addr v | regUnknownWr addr v | coreStatusRd | regLoad bank word | regUnalignedRd addr
  | regUnknownRd addr => exact ⟨_, rfl⟩

-- one event

/-- A write decodes to an instruction of its own value (R104). -/
theorem value_of_decode_regw {a b : RegAddr} (h : decode (.regw a v) = k) (hk : encode k = .regw b w) : w = v := by
  have code := encode_decodeWrite a v
  rw [show decodeWrite a v = k from h, hk] at code
  exact (Access.regw.inj code).2

/-- A read decodes to no instruction of a write (R105). -/
theorem decode_regr_ne_write {b : RegAddr} (hk : encode k = .regw b w) (a : RegAddr) : decode (.regr a) ≠ k := by
  intro h
  have code := encode_decodeRead a
  rw [show decodeRead a = k from h, hk] at code
  cases code

/-- A fire of the armed timer completes: the flags it writes leave the display as it was (R316). -/
theorem timerFire_completes (hfb : FbCovers s) (harmed : s.timerArmed = true) : ∃ t, timerFire s = .next t := by
  rw [timerFire, if_pos harmed, fireFlags_rest]
  exact drainLoop_completes hfb

theorem runEvent_completes {e : HostEvent} (hfb : FbCovers s) (hdma : DmaSourceInside e s)
    (harmed : e = .timerFire → s.timerArmed = true) : ∃ t, runEvent e s = .next t := by
  cases e with
  | write a v =>
    refine exec_completes (decode_wf _) hfb fun w hw => ?_
    obtain rfl := value_of_decode_regw hw rfl
    exact hdma a w rfl hw
  | read a => exact exec_completes (decode_wf _) hfb fun w hw => absurd hw (decode_regr_ne_write rfl _)
  | timerFire => exact timerFire_completes hfb (harmed rfl)
  | updateDisplay w h st d fb | init w h st d fb | close | vblank level => exact ⟨_, rfl⟩

/-- Settles O53: a block that is not closed admits every event, and no premise speaks of the inbox. -/
theorem stepCompletes : Obligations.StepCompletes := by
  intro s e rest hinbox hopen hfb hdma harmed
  have admits : admitted e { s with inbox := rest } = true := by cases e <;> simp [admitted, hopen]
  rw [step_eq_runEvent hinbox admits]
  exact runEvent_completes hfb hdma harmed

end Sys2Proof.Machine
end
